-- ==== Sys2Proof/Word.lean ====
section
/-! DEFINITION. The plain types of the block: bytes, the step input word, and the phases (R10, R20, R21, R74). -/

namespace Sys2Proof

/-- A byte: 8 bits, unsigned (R10). -/
abbrev Byte := BitVec 8

/-- The step input word `iw[10:0] = rst ++ kind ++ data` (R74). -/
abbrev InputWord := BitVec 11

/-- A 9-bit count or packet-buffer address: `idx`, `pkt_len`, `pkt_raddr` (R20, R50). -/
abbrev Count := BitVec 9

/-- A 16-bit checksum value (R20, R25). -/
abbrev Sum16 := BitVec 16

/-- Where in the frame the next byte falls: the five named values of `phase` (R20, R21).
The codes 5, 6, 7 of the 3-bit register are never written by any rule (R21); they have no constructor (log 7). -/
inductive Phase where
  /-- `HUNT` = 0: the next byte goes into the window. -/
  | hunt
  /-- `HDR` = 1: the next byte is header-region byte number `idx`. -/
  | hdr
  /-- `PAYLOAD` = 2: the next byte is payload byte number `idx - 5`. -/
  | payload
  /-- `CK_HI` = 3: the next byte is the high checksum byte. -/
  | ckHi
  /-- `CK_LO` = 4: the next byte is the low checksum byte. -/
  | ckLo
deriving DecidableEq, Repr

end Sys2Proof
end

