-- ==== Sys2Proof/Syntax.lean ====
section
/-! DEFINITION. The instructions: one constructor for each row of spec/opcode_table.json (R80). -/

namespace Sys2Proof

/-- What the block does for one step input word in one phase (R80): the eleven operations and the reserved row.
A `b` is the data byte `iw[7:0]` of a `BYTE` event; the other rows ignore those bits (R74), so carry none (log 12). -/
inductive Instr where
  /-- `SYN.BYTE` (R100): a byte arrives while hunting. -/
  | synByte (b : Byte)
  /-- `SYN.TMO` (R102): a read attempt times out while hunting. -/
  | synTmo
  /-- `SYN.ERR` (R104): the byte source fails while hunting. -/
  | synErr
  /-- `ASM.HDR` (R120): one of the first four header-region bytes arrives. -/
  | asmHdr (b : Byte)
  /-- `ASM.LEN` (R122): the declared payload length arrives. -/
  | asmLen (b : Byte)
  /-- `ASM.PAY` (R124): a payload byte arrives. -/
  | asmPay (b : Byte)
  /-- `ASM.TMO` (R126): a read attempt times out within a frame. -/
  | asmTmo
  /-- `ASM.ERR` (R128): the byte source fails within a frame. -/
  | asmErr
  /-- `CKS.HI` (R156): the first checksum byte arrives. -/
  | cksHi (b : Byte)
  /-- `CKS.LO` (R158): the second checksum byte arrives and the frame is judged. -/
  | cksLo (b : Byte)
  /-- `RESET` (R170): the reset bit of the input word is set. -/
  | reset
  /-- `EV.RSVD` (R172): the reserved event kind. -/
  | evRsvd
deriving DecidableEq, Repr

end Sys2Proof
end

