-- ==== Sys2Proof/WellFormed.lean ====
section
/-! DEFINITION. Well-formed instructions. Operands are bytes by type, so what is left to check is the selection
condition of the row: R80 selects an operation by the word AND by `phase` and `idx` (log 13). -/

namespace Sys2Proof

/-- The row's `condition` in spec/opcode_table.json holds of `phase` and `idx` (R80). -/
def Instr.wellFormedAt (phase : Phase) (idx : Count) : Instr → Bool
  | .synByte _ => phase == .hunt
  | .synTmo => phase == .hunt
  | .synErr => phase == .hunt
  | .asmHdr _ => phase == .hdr && decide (idx < 4)
  | .asmLen _ => phase == .hdr && idx == 4
  | .asmPay _ => phase == .payload
  | .asmTmo => phase != .hunt
  | .asmErr => phase != .hunt
  | .cksHi _ => phase == .ckHi
  | .cksLo _ => phase == .ckLo
  | .reset => true
  | .evRsvd => true

end Sys2Proof
end

