-- ==== Sys2Proof/Decode.lean ====
section
/-! DEFINITION. The step input word (R74), the dispatch function (R80), and the encoder written from the same
table of fields. -/

namespace Sys2Proof

/-- `iw[10]`: reset (R74). -/
def iwRst (iw : InputWord) : Bool := iw.getLsbD 10

/-- `iw[9:8]`: the event kind (R74). -/
def iwKind (iw : InputWord) : BitVec 2 := iw.extractLsb' 8 2

/-- `iw[7:0]`: the byte of a `BYTE` event (R74). -/
def iwData (iw : InputWord) : Byte := iw.extractLsb' 0 8

/-- The kind code `BYTE` (R74). -/
def kindByte : BitVec 2 := 0b00
/-- The kind code `TIMEOUT` (R74). -/
def kindTimeout : BitVec 2 := 0b01
/-- The kind code `IOERR` (R74). -/
def kindIoerr : BitVec 2 := 0b10
/-- The reserved kind code (R74, R82). -/
def kindReserved : BitVec 2 := 0b11

/-- `rst ++ kind ++ data` (R74). -/
def mkInputWord (rst : BitVec 1) (kind : BitVec 2) (data : Byte) : InputWord := rst ++ (kind ++ data)

/-- The canonical word of `BYTE(b)`, `0x0bb` (R74). -/
def byteWord (b : Byte) : InputWord := mkInputWord 0 kindByte b
/-- The canonical word of `TIMEOUT`, `0x100` (R74). -/
def timeoutWord : InputWord := mkInputWord 0 kindTimeout 0
/-- The canonical word of `IOERR`, `0x200` (R74). -/
def ioerrWord : InputWord := mkInputWord 0 kindIoerr 0
/-- The canonical word of reset, `0x400` (R74). -/
def resetWord : InputWord := mkInputWord 1 0 0
/-- The word `0x300` that the trace notation uses for the reserved kind (R85). -/
def reservedWord : InputWord := mkInputWord 0 kindReserved 0

/-- The word is admitted: reset, or one of the three defined kinds (R81, R82). -/
def admitted (iw : InputWord) : Bool := iwRst iw || iwKind iw != kindReserved

/-- Why a word selects no operation. -/
inductive DecodeError where
  /-- A `BYTE` in phase `HDR` with `idx > 4`: unreachable, without a meaning (R81). -/
  | headerIndexTooLarge
deriving DecidableEq, Repr

/-- A `BYTE` event selects its operation by `phase` and `idx` (R80). -/
def decodeByte (b : Byte) (phase : Phase) (idx : Count) : Except DecodeError Instr :=
  match phase with
  | .hunt => .ok (.synByte b)
  | .hdr =>
    if idx < 4 then .ok (.asmHdr b)
    else if idx = 4 then .ok (.asmLen b)
    else .error .headerIndexTooLarge
  | .payload => .ok (.asmPay b)
  | .ckHi => .ok (.cksHi b)
  | .ckLo => .ok (.cksLo b)

/-- The dispatch function of R80, top to bottom. -/
def decode (iw : InputWord) (phase : Phase) (idx : Count) : Except DecodeError Instr :=
  if iwRst iw then .ok .reset
  else if iwKind iw = kindReserved then .ok .evRsvd
  else if iwKind iw = kindByte then decodeByte (iwData iw) phase idx
  else if iwKind iw = kindTimeout then .ok (if phase = .hunt then .synTmo else .asmTmo)
  else .ok (if phase = .hunt then .synErr else .asmErr)

/-- The canonical input word of an instruction (R74, R80; `0x300` for the reserved row, R85). -/
def encode : Instr → InputWord
  | .synByte b => byteWord b
  | .synTmo => timeoutWord
  | .synErr => ioerrWord
  | .asmHdr b => byteWord b
  | .asmLen b => byteWord b
  | .asmPay b => byteWord b
  | .asmTmo => timeoutWord
  | .asmErr => ioerrWord
  | .cksHi b => byteWord b
  | .cksLo b => byteWord b
  | .reset => resetWord
  | .evRsvd => reservedWord

/-- The word with its ignored bits set as in the canonical words of R74. -/
def canonicalWord (iw : InputWord) : InputWord :=
  if iwRst iw then resetWord
  else if iwKind iw = kindByte then byteWord (iwData iw)
  else mkInputWord 0 (iwKind iw) 0

/-- An opcode-table word of `nbits` bits as a step input word: none if it has a bit above `iw[10]` (R74: there is
one length, 11 bits; the rest of the whole bytes is padding). -/
def tableWord? (nbits w : Nat) : Option InputWord :=
  if w < 2 ^ nbits ∧ w < 2 ^ 11 then some (BitVec.ofNat 11 w) else none

/-- The instruction read from an opcode-table word in the context of the reset state, phase `HUNT` and `idx = 0`
(R34): the table gives six rows the same bits, and only `phase` and `idx` tell them apart (log 9). -/
def decodeTableWord (nbits w : Nat) : Option Instr :=
  match tableWord? nbits w with
  | none => none
  | some iw =>
    match decode iw .hunt 0 with
    | .ok i => some i
    | .error _ => none

end Sys2Proof
end

