-- ==== Sys2Proof/Config.lean ====
section
/-! DEFINITION. What is fixed for the machine: the constants (R5, R6), the two elaboration-time parameters
(R7, R8) with the sizes that follow from them (R9), and the one free value (R34, U10). -/

namespace Sys2Proof

/-- The parameters of the block, fixed at elaboration and never written at run time (R7, R8, R30). -/
structure Config where
  /-- `MAX_PAYLOAD`, `0 <= MAX_PAYLOAD <= 255` (R7): the eight bits are exactly that range. -/
  maxPayload : BitVec 8
  /-- `CKSUM_SEED`, the value with which the accumulator starts each frame (R8). -/
  cksumSeed : Sum16
deriving DecidableEq, Repr

namespace Config

/-- The parameter values of the reset state: `MAX_PAYLOAD = 64`, the spec's reference value (R7), and
`CKSUM_SEED = 0x00A5`, its value for this hardware (R8). DESIGN CHOICE (log 1): R7 leaves `MAX_PAYLOAD` open. -/
def reference : Config := { maxPayload := 64, cksumSeed := 0x00A5 }

/-- `PREAMBLE`, first byte on the wire first (R5). -/
def preamble : List Byte := [0xFF, 0x00, 0xFF, 0xA5]

/-- `HDR_LEN`, the bytes of the header region (R6). -/
def hdrLen : Nat := 5

/-- `CK_LEN`, the checksum bytes (R6). -/
def ckLen : Nat := 2

/-- `WIN_LEN`, the bytes of the window and of the preamble (R6). -/
def winLen : Nat := 4

/-- `BUF_SIZE = HDR_LEN + MAX_PAYLOAD`, the size of the packet buffer in bytes (R9). -/
def bufSize (c : Config) : Nat := hdrLen + c.maxPayload.toNat

/-- FREE VALUE (log 5): what a cell of `buf` that nothing has written since reset holds, by address. R34 and U10
leave it open ("any value"); it has no body, so nothing can be proved of it. -/
opaque unwrittenByte : Nat → Byte

end Config

end Sys2Proof
end

