-- ==== Sys2Proof/Machine/State.lean ====
section
/-! DEFINITION. The machine's state (R20), the outcomes a step reports (R77), the reasons a step can stop, and the
state after reset (R34). -/

namespace Sys2Proof.Machine

/-- The packet buffer: the cells that have been written, as (address, byte), addresses strictly rising (R50, R34).
An unlisted address holds no value of the model: nothing has written it since reset (log 5, log 16). -/
abbrev Memory := List Host.Cell

/-- The canonical form of the buffer: addresses strictly rising. -/
def Memory.wf (m : Memory) : Bool := decide (m.Pairwise fun c d => c.1 < d.1)

/-- The window `win[0..3]`, `b3` newest (R22). -/
structure Window where
  b0 : Byte
  b1 : Byte
  b2 : Byte
  b3 : Byte
deriving DecidableEq, Repr

/-- The cleared window (R22). -/
def Window.clear : Window := { b0 := 0, b1 := 0, b2 := 0, b3 := 0 }

/-- The outcome of a step, one of eight (R77, R78). -/
inductive StepOutcome where
  /-- `None`: the block goes on reading. -/
  | quiet
  /-- `Synchronized`: the last four bytes match the preamble. -/
  | synchronized
  /-- `BusIdle`: a read timed out while hunting. -/
  | busIdle
  /-- `IoFailure`: the byte source failed. -/
  | ioFailure
  /-- `PacketOk(packet)`: a validated packet, by value (R54). -/
  | packetOk (packet : List Byte)
  /-- `ChecksumMismatch`: a whole frame, corrupted. -/
  | checksumMismatch
  /-- `LengthOutOfRange(N)`: the declared length exceeds `MAX_PAYLOAD`. -/
  | lengthOutOfRange (n : Byte)
  /-- `ShortRead(got)`: a timeout within a frame after `got` bytes. -/
  | shortRead (got : Count)
deriving DecidableEq, Repr

/-- The state: the ten elements of R20, then three fields of the model's own. -/
structure State where
  /-- `phase` (R21). -/
  phase : Phase
  /-- `win[0..3]` (R22). -/
  win : Window
  /-- `win_n` (R22). -/
  winN : BitVec 3
  /-- `idx` (R23). -/
  idx : Count
  /-- `len` (R24). -/
  len : Byte
  /-- `sum` (R25). -/
  sum : Sum16
  /-- `ck_hi` (R26). -/
  ckHi : Byte
  /-- `pkt_valid` (R27). -/
  pktValid : Bool
  /-- `pkt_len` (R28). -/
  pktLen : Count
  /-- `buf` (R50). -/
  buf : Memory
  /-- The elaboration-time parameters, which no step writes (R7, R8, R30; log 1). -/
  cfg : Config
  /-- The input words still to come, oldest first: the environment's trace (R12, R14; log 2). -/
  trace : List InputWord
  /-- The outcome of the step just made; none when the last clock edge made no step (R76, R222; log 3). -/
  out : Option StepOutcome
deriving DecidableEq, Repr

/-- The reasons to stop at an access that the spec rules out. The block itself never faults (R15, R81). -/
inductive Fault where
  /-- An access to `buf` at or beyond `BUF_SIZE`, where there is no cell (R50). Raised by the buffer operations of
  `Machine/Ops.lean`, in states that no run reaches (R33 I7). Safe: the model stops (log 6). -/
  | outsideBuffer
deriving DecidableEq, Repr

/-- The reasons to give a step no meaning. -/
inductive Refusal where
  /-- An instruction that has no meaning yet; raised by `exec`'s arms only. Safe: the model stops. -/
  | notModelled (mnemonic : String)
  /-- The reserved event kind (R172): "a model refuses it". Raised by `execEvRsvd`. Safe: the model stops (log 8). -/
  | reservedEvent
  /-- The word selects no operation (R81: phase `HDR` with `idx > 4`, unreachable). Raised by `react`.
  Safe: the model stops (log 7). -/
  | noOperation
deriving DecidableEq, Repr

/-- The state right after reset (R34); the model's own fields at the values of log 1, 2 and 3. -/
def State.reset : State :=
  { phase := .hunt, win := .clear, winN := 0, idx := 0, len := 0, sum := 0x0000, ckHi := 0x00,
    pktValid := false, pktLen := 0, buf := [], cfg := Config.reference, trace := [], out := none }

end Sys2Proof.Machine
end

