-- ==== Sys2Proof/Machine/Flags.lean ====
section
/-! DEFINITION. The one flag `pkt_valid` with its length (R27, R28), and the computed bit `ver_valid` (R130). -/

namespace Sys2Proof.Machine

/-- `pkt_valid <- 1; pkt_len <- n` (R27, R28). -/
def validatePacket (n : Count) (s : State) : State := { s with pktValid := true, pktLen := n }

/-- `pkt_valid <- 0`; `pkt_len` keeps its value (R27, R28). -/
def withdrawPacket (s : State) : State := { s with pktValid := false }

/-- `ver_valid` as computed from the version byte (R130). -/
def versionValid (version : Byte) : Bool := version == 0x00 || version == 0x01

end Sys2Proof.Machine
end

