-- ==== Sys2Proof/Machine/Operands.lean ====
section
/-! DEFINITION. The values an operation computes from its byte and the registers: extensions, the checksum
(R151, R152), the received checksum (R72), the end of the frame's body and the bytes consumed. All unsigned (R153). -/

namespace Sys2Proof.Machine

/-- `zext_16(b)` (R10). -/
def zext16 (b : Byte) : Sum16 := b.setWidth 16

/-- `zext_9(b)` (R10). -/
def zext9 (b : Byte) : Count := b.setWidth 9

/-- One accumulation, `sum +_16 zext_16(b)` (R151). -/
def accumulate (sum : Sum16) (b : Byte) : Sum16 := sum + zext16 b

/-- `checksum(body)` under a seed (R152). -/
def checksum (seed : Sum16) (body : List Byte) : Sum16 := body.foldl accumulate seed

/-- `rx = ck_hi ++ b`, first byte high (R72, R158). -/
def receivedChecksum (hi lo : Byte) : Sum16 := hi ++ lo

/-- `5 + zext_9(len)`: the value of `idx` when the last payload byte is in (R124). -/
def bodyEnd (len : Byte) : Count := 5 + zext9 len

/-- `zext_9(b) > MAX_PAYLOAD`, unsigned and strict (R122). -/
def lengthTooLarge (c : Config) (b : Byte) : Bool := decide (zext9 c.maxPayload < zext9 b)

/-- `got`: the bytes consumed after the preamble (R126). -/
def bytesConsumed (s : State) : Count := s.idx + (if s.phase = .ckLo then 1 else 0)

/-- `(win[1], win[2], win[3], b)`: drop the oldest, append the newest (R100). -/
def Window.shiftIn (w : Window) (b : Byte) : Window := { b0 := w.b1, b1 := w.b2, b2 := w.b3, b3 := b }

/-- `min(win_n + 1, 4)` (R100). -/
def nextWinN (n : BitVec 3) : BitVec 3 := BitVec.ofNat 3 (min (n.toNat + 1) Config.winLen)

/-- The window's bytes, oldest first. -/
def Window.bytes (w : Window) : List Byte := [w.b0, w.b1, w.b2, w.b3]

/-- The window sequence `win[4-win_n .. 3]`, oldest first (R22). -/
def windowSeq (w : Window) (n : BitVec 3) : List Byte := w.bytes.drop (Config.winLen - n.toNat)

/-- The window after a byte is full and equals `PREAMBLE` (R100). -/
def preambleMatch (w : Window) (n : BitVec 3) : Bool := n == 4 && w.bytes == Config.preamble

end Sys2Proof.Machine
end

