-- ==== Sys2Proof/Machine/Ops.lean ====
section
/-! DEFINITION. The named operations over the buffer and the registers: the primitives of R11, the one shared way an
outcome is reported and a frame ended (R186), the read port (R53), and the input trace. -/

namespace Sys2Proof.Machine

/-- What a meaning answers. -/
abbrev Result := Host.Outcome State Fault Refusal

/-- Go on with `f` when `r` is a next state; stop as `r` stops. -/
def mapNext (f : State → State) (r : Result) : Result :=
  match r with
  | .next s => .next (f s)
  | .fault e => .fault e
  | .refused e => .refused e

/-! ### The buffer -/

/-- The byte written to a cell; none where nothing has been written since reset. -/
def Memory.cell? : Memory → Nat → Option Byte
  | [], _ => none
  | (k, v) :: m, a => if a = k then some v else Memory.cell? m a

/-- `buf[a] <- b`, keeping the addresses strictly rising. -/
def Memory.write : Memory → Nat → Byte → Memory
  | [], a, b => [(a, b)]
  | (k, v) :: m, a, b =>
    if a < k then (a, b) :: (k, v) :: m
    else if a = k then (a, b) :: m
    else (k, v) :: Memory.write m a b

/-- `MemRead(a, 1)` (R11): the byte at `a`, the free value where nothing has been written since reset
(R34, log 5). -/
def Memory.byteAt (m : Memory) (a : Nat) : Byte := (m.cell? a).getD (Config.unwrittenByte a)

/-- `buf[0 .. n-1]`, in order. -/
def Memory.prefixBytes (m : Memory) (n : Nat) : List Byte := (List.range n).map m.byteAt

/-- What `ASM.HDR`, `ASM.LEN` and `ASM.PAY` do alike with a byte at buffer address `a` (R52, R151):
`MemWrite(a, 1, b)`, `sum <- sum +_16 zext_16(b)`, `idx <- a + 1`. -/
def storeBodyByte (a : Count) (b : Byte) (s : State) : State :=
  { s with buf := s.buf.write a.toNat b, sum := accumulate s.sum b, idx := a + 1 }

/-- The same, at an address that exists: at or beyond `BUF_SIZE` there is no cell (R50, log 6). -/
def takeBodyByte (a : Count) (b : Byte) (s : State) : Result :=
  if a.toNat < s.cfg.bufSize then .next (storeBodyByte a b s) else .fault .outsideBuffer

/-- Go on with the packet `buf[0 .. n-1]` (R54), all of whose cells must exist (R50). -/
def withPacket (n : Count) (s : State) (k : List Byte → Result) : Result :=
  if n.toNat ≤ s.cfg.bufSize then k (s.buf.prefixBytes n.toNat) else .fault .outsideBuffer

/-! ### Registers -/

/-- `win[0..3] <- w; win_n <- n`. -/
def setWindow (w : Window) (n : BitVec 3) (s : State) : State := { s with win := w, winN := n }

/-- `clear_window()` (R11). -/
def clearWindow (s : State) : State := setWindow .clear 0 s

/-- `phase <- p` (R11). -/
def setPhase (p : Phase) (s : State) : State := { s with phase := p }

/-- `len <- b` (R24). -/
def setLen (b : Byte) (s : State) : State := { s with len := b }

/-- `ck_hi <- b` (R26). -/
def setCkHi (b : Byte) (s : State) : State := { s with ckHi := b }

/-- `idx <- 0; sum <- CKSUM_SEED`: the registers with which a frame starts (R100, R150). -/
def startSum (s : State) : State := { s with idx := 0, sum := s.cfg.cksumSeed }

/-- Every element but `buf` to its reset value (R170); the parameters are no element and stay (R30). `buf` is not stored
to, and from here on every byte of it is treated as unwritten, until an assembler operation writes it (R34, log 16). -/
def resetElements (s : State) : State :=
  { s with phase := .hunt, win := .clear, winN := 0, idx := 0, len := 0, sum := 0x0000, ckHi := 0x00,
           pktValid := false, pktLen := 0, buf := [] }

/-! ### Outcomes -/

/-- `outcome <- o`, or the reporting half of `raise o` (R11). -/
def report (o : StepOutcome) (s : State) : State := { s with out := some o }

/-- `abort_to_hunt()` (R11). -/
def abortToHunt (s : State) : State := setPhase .hunt (clearWindow s)

/-- The shared entry of an outcome that ends a frame or a hunt, `raise o; abort_to_hunt()` (R186): nothing is saved,
no vector is taken, the block hunts with a clear window. The return is automatic (R189). -/
def raiseAndHunt (o : StepOutcome) (s : State) : State := report o (abortToHunt s)

/-! ### Ports that read the state (no step, no side effect) -/

/-- The packet read port (R53): the byte inside the gate, none outside it, where the read has no meaning (log 10). -/
def readPort (s : State) (raddr : Count) : Option Byte :=
  if s.pktValid && decide (raddr < s.pktLen) then some (s.buf.byteAt raddr.toNat) else none

/-- A header tap `buf[a]` (R56), meaningful only while `pkt_valid = 1`. -/
def headerTap (s : State) (a : Nat) : Option Byte :=
  if s.pktValid then some (s.buf.byteAt a) else none

/-- The output `ver_valid` (R56, R130), meaningful only while `pkt_valid = 1`. -/
def verValid (s : State) : Option Bool := (headerTap s 0).map versionValid

/-! ### The input -/

/-- The trace becomes `ws`. -/
def setTrace (ws : List InputWord) (s : State) : State := { s with trace := ws }

/-- A clock edge without a step: no element changes, no outcome is reported (R76, R222). -/
def idle (s : State) : State := { s with out := none }

/-- The next input word and the state without it; none when no event is waiting. -/
def takeWord (s : State) : Option (InputWord × State) :=
  match s.trace with
  | [] => none
  | iw :: rest => some (iw, setTrace rest s)

/-- An opcode-table word placed before the rest of the trace; nothing for a number that is no input word. -/
def placeTableWord (s : State) (nbits w : Nat) : State :=
  match tableWord? nbits w with
  | none => s
  | some iw => setTrace (iw :: s.trace) s

end Sys2Proof.Machine
end

