-- ==== Sys2Proof/Machine/Assembler.lean ====
section
/-! DEFINITION. The assembler operations ASM.HDR, ASM.LEN, ASM.PAY, ASM.TMO, ASM.ERR (spec file 41). -/

namespace Sys2Proof.Machine

/-- `ASM.HDR` (R120). -/
def execAsmHdr (b : Byte) (s : State) : Result :=
  mapNext (report .quiet) (takeBodyByte s.idx b s)

/-- The length test of R122, on the state that holds the stored byte. -/
def judgeLength (b : Byte) (s : State) : State :=
  if lengthTooLarge s.cfg b then raiseAndHunt (.lengthOutOfRange b) s
  else if b = 0 then report .quiet (setPhase .ckHi s)
  else report .quiet (setPhase .payload s)

/-- `ASM.LEN` (R122): the byte goes to `buf[4]` whatever `idx` is. -/
def execAsmLen (b : Byte) (s : State) : Result :=
  mapNext (fun t => judgeLength b (setLen b t)) (takeBodyByte 4#9 b s)

/-- The end test of R124: `idx + 1 = 5 + zext_9(len)`, seen as the new `idx`. -/
def endOfPayload (s : State) : State :=
  if s.idx = bodyEnd s.len then setPhase .ckHi s else s

/-- `ASM.PAY` (R124). -/
def execAsmPay (b : Byte) (s : State) : Result :=
  mapNext (fun t => report .quiet (endOfPayload t)) (takeBodyByte s.idx b s)

/-- `ASM.TMO` (R126). -/
def execAsmTmo (s : State) : Result := .next (raiseAndHunt (.shortRead (bytesConsumed s)) s)

/-- `ASM.ERR` (R128). -/
def execAsmErr (s : State) : Result := .next (raiseAndHunt .ioFailure s)

end Sys2Proof.Machine
end

