-- ==== Sys2Proof/Machine/Checksum.lean ====
section
/-! DEFINITION. The checksum operations CKS.HI and CKS.LO (spec file 42). -/

namespace Sys2Proof.Machine

/-- `CKS.HI` (R156). -/
def execCksHi (b : Byte) (s : State) : Result :=
  .next (report .quiet (setPhase .ckLo (setCkHi b s)))

/-- `CKS.LO` (R158). -/
def execCksLo (b : Byte) (s : State) : Result :=
  if receivedChecksum s.ckHi b = s.sum then
    withPacket s.idx s fun p => .next (raiseAndHunt (.packetOk p) (validatePacket s.idx s))
  else .next (raiseAndHunt .checksumMismatch s)

end Sys2Proof.Machine
end

