-- ==== Sys2Proof/Machine/Synchronizer.lean ====
section
/-! DEFINITION. The synchronizer operations SYN.BYTE, SYN.TMO, SYN.ERR (spec file 40). -/

namespace Sys2Proof.Machine

/-- The match half of R100: a frame starts, and the previous packet stops being readable. -/
def startFrame (s : State) : State :=
  report .synchronized (clearWindow (withdrawPacket (startSum (setPhase .hdr s))))

/-- `SYN.BYTE` (R100). -/
def execSynByte (b : Byte) (s : State) : Result :=
  let w := s.win.shiftIn b
  let n := nextWinN s.winN
  if preambleMatch w n then .next (startFrame s)
  else .next (report .quiet (setWindow w n s))

/-- `SYN.TMO` (R102). -/
def execSynTmo (s : State) : Result := .next (raiseAndHunt .busIdle s)

/-- `SYN.ERR` (R104). -/
def execSynErr (s : State) : Result := .next (raiseAndHunt .ioFailure s)

end Sys2Proof.Machine
end

