-- ==== Sys2Proof/Machine/System.lean ====
section
/-! DEFINITION. The system operations RESET and EV.RSVD (spec file 43). -/

namespace Sys2Proof.Machine

/-- `RESET` (R170): to the reset state (R34); the outcome is `None`. -/
def execReset (s : State) : Result := .next (report .quiet (resetElements s))

/-- `EV.RSVD` (R172): "A model *refuses* it: the step has no meaning, no next state and no outcome" (log 8). -/
def execEvRsvd (_ : State) : Result := .refused .reservedEvent

end Sys2Proof.Machine
end

