-- ==== Sys2Proof/Machine/Dispatch.lean ====
section
/-! DEFINITION. One arm for each instruction. -/

namespace Sys2Proof.Machine

def exec (i : Instr) (s : State) : Host.Outcome State Fault Refusal :=
  match i with
  | .synByte b => Sys2Proof.Machine.execSynByte b s
  | .synTmo => Sys2Proof.Machine.execSynTmo s
  | .synErr => Sys2Proof.Machine.execSynErr s
  | .asmHdr b => Sys2Proof.Machine.execAsmHdr b s
  | .asmLen b => Sys2Proof.Machine.execAsmLen b s
  | .asmPay b => Sys2Proof.Machine.execAsmPay b s
  | .asmTmo => Sys2Proof.Machine.execAsmTmo s
  | .asmErr => Sys2Proof.Machine.execAsmErr s
  | .cksHi b => Sys2Proof.Machine.execCksHi b s
  | .cksLo b => Sys2Proof.Machine.execCksLo b s
  | .reset => Sys2Proof.Machine.execReset s
  | .evRsvd => Sys2Proof.Machine.execEvRsvd s

end Sys2Proof.Machine
end

