-- ==== Sys2Proof/Machine/React.lean ====
section
/-! DEFINITION. The reaction to one step input word (R12, R80): dispatch on the word, `phase` and `idx`, then the
selected operation. -/

namespace Sys2Proof.Machine

/-- The block's reaction to the input word `iw` (R12). -/
def react (iw : InputWord) (s : State) : Result :=
  match decode iw s.phase s.idx with
  | .ok i => exec i s
  | .error .headerIndexTooLarge => .refused .noOperation

end Sys2Proof.Machine
end

