-- ==== Sys2Proof/Machine/Step.lean ====
section
/-! DEFINITION. One clock edge of the machine. -/

namespace Sys2Proof.Machine

/-- One step on the next input word of the trace (R12); with no event waiting, an idle edge at which no element
changes (R76, R220, log 4). -/
def step (s : State) : Host.Outcome State Fault Refusal :=
  match takeWord s with
  | none => .next (idle s)
  | some (iw, t) => react iw t

/-- The opcode-table word placed as the next word of the trace (log 2). -/
def State.withFetchWord (s : State) (nbits w : Nat) : State := placeTableWord s nbits w

end Sys2Proof.Machine
end

