-- ==== Sys2Proof/Machine/Ports.lean ====
section
/-! DEFINITION. The ports of a hardware implementation (R76): what a clock edge samples, and what the outputs show. -/

namespace Sys2Proof.Machine

/-- The 3-bit code of a phase (R20). -/
def phaseCode : Phase → BitVec 3
  | .hunt => 0
  | .hdr => 1
  | .payload => 2
  | .ckHi => 3
  | .ckLo => 4

/-- `out_kind` (R78). -/
def outKind : StepOutcome → BitVec 3
  | .quiet => 0
  | .synchronized => 1
  | .busIdle => 2
  | .ioFailure => 3
  | .packetOk _ => 4
  | .checksumMismatch => 5
  | .lengthOutOfRange _ => 6
  | .shortRead _ => 7

/-- `out_info` (R78). -/
def outInfo : StepOutcome → Count
  | .quiet => 0
  | .synchronized => 0
  | .busIdle => 0
  | .ioFailure => 0
  | .packetOk p => BitVec.ofNat 9 p.length
  | .checksumMismatch => 0
  | .lengthOutOfRange n => zext9 n
  | .shortRead got => got

/-- The input ports sampled at a rising edge of `clk` (R76), but for `pkt_raddr`, which makes no step. -/
structure InPins where
  rst : Bool
  evValid : Bool
  evKind : BitVec 2
  evData : Byte
deriving DecidableEq, Repr

/-- The step input word of an edge: `rst ++ ev_kind ++ ev_data` when `rst = 1` or `ev_valid = 1` (R76). -/
def InPins.inputWord? (p : InPins) : Option InputWord :=
  if p.rst || p.evValid then some (mkInputWord (BitVec.ofBool p.rst) p.evKind p.evData) else none

/-- One rising edge of `clk` with these inputs (R76); the trace plays no part in it. -/
def clockEdge (p : InPins) (s : State) : Result :=
  match p.inputWord? with
  | none => .next (idle s)
  | some iw => react iw s

/-- The output ports (R76). A field without a value is one whose value the spec gives no meaning (log 10). -/
structure OutPins where
  /-- Constant 1: the block never back-pressures the byte source. -/
  evReady : Bool
  outValid : Bool
  outKind : Option (BitVec 3)
  outInfo : Option Count
  pktValid : Bool
  pktLen : Count
  pktRdata : Option Byte
  hdrVersion : Option Byte
  hdrDestination : Option Byte
  hdrSource : Option Byte
  hdrCommand : Option Byte
  hdrLen : Option Byte
  verValid : Option Bool
deriving DecidableEq, Repr

/-- The outputs in a state, with `pkt_raddr` presented (R53, R56, R76). -/
def outPins (s : State) (pktRaddr : Count) : OutPins :=
  { evReady := true
    outValid := s.out.isSome
    outKind := s.out.map outKind
    outInfo := s.out.map outInfo
    pktValid := s.pktValid
    pktLen := s.pktLen
    pktRdata := readPort s pktRaddr
    hdrVersion := headerTap s 0
    hdrDestination := headerTap s 1
    hdrSource := headerTap s 2
    hdrCommand := headerTap s 3
    hdrLen := headerTap s 4
    verValid := verValid s }

end Sys2Proof.Machine
end

