-- ==== Sys2Proof/Machine/Trace.lean ====
section
/-! DEFINITION. Events (R73), frames on the wire (R70), and the trace notation with its pseudo-items (R85, R86). -/

namespace Sys2Proof.Machine

/-- What the byte source answers to one read attempt (R73). -/
inductive Event where
  | byte (b : Byte)
  | timeout
  | ioerr
deriving DecidableEq, Repr

/-- The canonical input word of an event (R74). -/
def eventWord : Event → InputWord
  | .byte b => byteWord b
  | .timeout => timeoutWord
  | .ioerr => ioerrWord

/-- The input words of bytes read one after another. -/
def byteWords (bs : List Byte) : List InputWord := bs.map byteWord

/-- A frame's body without its checksum: header bytes, the payload count `N`, the payload (R70, R86). -/
def frameBody (v d s c : Byte) (payload : List Byte) : List Byte :=
  v :: d :: s :: c :: BitVec.ofNat 8 payload.length :: payload

/-- The two checksum bytes of a body, high byte first (R152). -/
def checksumBytes (seed : Sum16) (body : List Byte) : List Byte :=
  [(checksum seed body).extractLsb' 8 8, (checksum seed body).extractLsb' 0 8]

/-- A good frame on the wire after its preamble: the body and its checksum (R70, R86). -/
def goodFrame (seed : Sum16) (v d s c : Byte) (payload : List Byte) : List Byte :=
  frameBody v d s c payload ++ checksumBytes seed (frameBody v d s c payload)

/-- An item of the trace notation (R85) or a pseudo-item (R86). -/
inductive TraceItem where
  /-- `hh`. -/
  | hh (b : Byte)
  /-- `T`, `E`, `R`, `X`. -/
  | t
  | e
  | r
  | x
  /-- `PRE`. -/
  | pre
  /-- `FRAME(v d s c : p0 p1 ...)`; the notation has at most 255 payload bytes (log 14). -/
  | frame (v d s c : Byte) (payload : List Byte)
  /-- `IDLE(n)`. -/
  | idle (n : Nat)
deriving DecidableEq, Repr

/-- The input words an item stands for, under a checksum seed (R85, R86). -/
def TraceItem.words (seed : Sum16) : TraceItem → List InputWord
  | .hh b => [byteWord b]
  | .t => [timeoutWord]
  | .e => [ioerrWord]
  | .r => [resetWord]
  | .x => [reservedWord]
  | .pre => byteWords Config.preamble
  | .frame v d s c payload => byteWords (goodFrame seed v d s c payload)
  | .idle n => List.replicate n timeoutWord

/-- The input words of a written trace. -/
def assemble (seed : Sum16) (items : List TraceItem) : List InputWord := items.flatMap (TraceItem.words seed)

end Sys2Proof.Machine
end

