-- ==== Sys2Proof/Safety.lean ====
section
/-! DEFINITION. What counts as a safe run: the invariants of R33, admitted traces, and runs of many steps, in the
terms the statements use. -/

namespace Sys2Proof.Machine

/-- The cells `buf[0 .. n-1]` have all been written (R34). -/
def writtenBelow (m : Memory) (n : Nat) : Prop := ∀ a, a < n → (m.cell? a).isSome

/-- The phases in which the checksum bytes are read. -/
def inChecksumPhase (p : Phase) : Prop := p = .ckHi ∨ p = .ckLo

/-- The window is clear (R22): no byte counted, all four `0x00`. -/
def windowClear (s : State) : Prop := s.win = .clear ∧ s.winN = 0

/-- The window as a register pair: the count is at most 4 and the bytes not counted are still `0x00`, since a clear
leaves them so and the window is filled from the newest end (R22, R100 corner case (a)). -/
structure WindowInv (w : Window) (n : BitVec 3) : Prop where
  count : n ≤ 4
  unfilled : ∀ k, k < 4 - n.toNat → w.bytes[k]? = some 0x00

/-- The invariants of every reachable state (R33; I8, which speaks of past inputs, is left to statements about runs). -/
structure Inv (s : State) : Prop where
  /-- I1, and the unfilled window bytes (R22). -/
  window : WindowInv s.win s.winN
  /-- I2, phase `HDR`. -/
  hdr : s.phase = .hdr → s.idx ≤ 4
  /-- I2, phase `PAYLOAD`. -/
  payload : s.phase = .payload →
    1 ≤ s.len ∧ s.len ≤ s.cfg.maxPayload ∧ 5 ≤ s.idx.toNat ∧ s.idx.toNat < 5 + s.len.toNat
  /-- I2, the checksum phases. -/
  checksumPhases : inChecksumPhase s.phase → s.len ≤ s.cfg.maxPayload ∧ s.idx.toNat = 5 + s.len.toNat
  /-- I3. -/
  running : s.phase ≠ .hunt → s.sum = checksum s.cfg.cksumSeed (s.buf.prefixBytes s.idx.toNat)
  /-- I4. -/
  length : s.phase = .payload ∨ inChecksumPhase s.phase → s.buf.cell? 4 = some s.len
  /-- I5. -/
  assembling : s.phase ≠ .hunt → windowClear s
  /-- I6; the received checksum, which `CKS.LO` found equal to `sum`, is still what `sum` and `ck_hi` hold. -/
  valid : s.pktValid = true →
    s.phase = .hunt ∧ s.pktLen = s.idx ∧
    (∃ n, s.buf.cell? 4 = some n ∧ s.pktLen.toNat = 5 + n.toNat ∧ n ≤ s.cfg.maxPayload) ∧
    checksum s.cfg.cksumSeed (s.buf.prefixBytes s.pktLen.toNat) = s.sum ∧ s.ckHi = s.sum.extractLsb' 8 8
  /-- I7, the counter. -/
  counter : s.idx.toNat ≤ s.cfg.bufSize
  /-- I7, the buffer: no cell at or beyond `BUF_SIZE`. -/
  inside : ∀ a, s.cfg.bufSize ≤ a → s.buf.cell? a = none
  /-- R34: what a rule reads has been written. -/
  written : s.phase ≠ .hunt ∨ s.pktValid = true → writtenBelow s.buf s.idx.toNat
  /-- The buffer is in canonical form. -/
  canonical : s.buf.wf = true
  /-- R20: `pkt_len` is `0` or a packet's length. -/
  packetLength : s.pktLen = 0 ∨ (5 ≤ s.pktLen.toNat ∧ s.pktLen.toNat ≤ s.cfg.bufSize)

/-- Every word still to come is admitted (R81, R82). -/
def traceAdmitted (s : State) : Prop := ∀ iw ∈ s.trace, admitted iw = true

/-- `k` steps from `s` lead to `t`, with no stop on the way. -/
def runsTo (k : Nat) (s t : State) : Prop := Host.Core.run Sys2Proof.core k s = .next t

/-- After `k` steps from `s` the outcome just reported is `o`. -/
def reportsAt (k : Nat) (s : State) (o : StepOutcome) : Prop := ∃ t, runsTo k s t ∧ t.out = some o

/-- Every one of the first `k` steps from `s` reports `None`. -/
def quietFor (k : Nat) (s : State) : Prop := ∀ j, 1 ≤ j → j ≤ k → reportsAt j s .quiet

/-- The start of a frame: `HDR` with no byte consumed, the accumulator at the seed, no packet valid, the window clear
(the state that `Synchronized` leaves, R186). -/
structure FrameStart (s : State) : Prop where
  phase : s.phase = .hdr
  idx : s.idx = 0
  sum : s.sum = s.cfg.cksumSeed
  packet : s.pktValid = false
  window : windowClear s

/-- The block hunts with a clear window (R105, R189). -/
def huntsAfresh (s : State) : Prop := s.phase = .hunt ∧ windowClear s

/-- The preamble stands at positions `k-3 .. k` of a byte sequence (R101). -/
def preambleEndsAt (bs : List Byte) (k : Nat) : Prop := 3 ≤ k ∧ (bs.drop (k - 3)).take 4 = Config.preamble

/-- One row of the transition table: the next phase, the code of the outcome and its information. -/
structure TableRow where
  next : Phase
  kind : Nat
  info : Nat
deriving DecidableEq, Repr

/-- The row of R84 for a state and an input word, with `out_kind` and `out_info` as R78 encodes the row's outcome:
written out row by row over numbers, with none of the operations' own definitions. None where the table has no row. -/
def transition (s : State) (iw : InputWord) : Option TableRow :=
  let b := iw.toNat % 256
  let kind := iw.toNat / 256
  if 4 ≤ kind then some ⟨.hunt, 0, 0⟩
  else match s.phase, kind with
    | .hunt, 0 =>
      if 3 ≤ s.winN.toNat ∧ [s.win.b1.toNat, s.win.b2.toNat, s.win.b3.toNat, b] = [0xFF, 0x00, 0xFF, 0xA5]
      then some ⟨.hdr, 1, 0⟩
      else some ⟨.hunt, 0, 0⟩
    | .hunt, 1 => some ⟨.hunt, 2, 0⟩
    | .hunt, 2 => some ⟨.hunt, 3, 0⟩
    | .hdr, 0 =>
      if s.idx.toNat < 4 then some ⟨.hdr, 0, 0⟩
      else if s.idx.toNat = 4 then
        if s.cfg.maxPayload.toNat < b then some ⟨.hunt, 6, b⟩
        else if b = 0 then some ⟨.ckHi, 0, 0⟩
        else some ⟨.payload, 0, 0⟩
      else none
    | .payload, 0 =>
      if s.idx.toNat + 1 < 5 + s.len.toNat then some ⟨.payload, 0, 0⟩ else some ⟨.ckHi, 0, 0⟩
    | .ckHi, 0 => some ⟨.ckLo, 0, 0⟩
    | .ckLo, 0 =>
      if 256 * s.ckHi.toNat + b = s.sum.toNat then some ⟨.hunt, 4, 5 + s.len.toNat⟩ else some ⟨.hunt, 5, 0⟩
    | .ckLo, 1 => some ⟨.hunt, 7, s.idx.toNat + 1⟩
    | _, 1 => some ⟨.hunt, 7, s.idx.toNat⟩
    | _, 2 => some ⟨.hunt, 3, 0⟩
    | _, _ => none

end Sys2Proof.Machine
end

