-- ==== Sys2Proof/Certificates/Slice0/Obligations.lean ====
section
/-! DEFINITION. The statements for the provers: encodings, the effect of each operation, frames, the invariants of R33,
and the rules about whole frames and runs. -/

open Sys2Proof Sys2Proof.Machine

/-! ### Encoding and dispatch -/

/-- Words written out from the rows of R80, in a phase and with an index that select each row. -/
def Obligations.SampleWordsDecode : Prop :=
  decode 0b000_11111111#11 .hunt 0 = .ok (.synByte 0xFF) ∧
  decode 0b001_00000000#11 .hunt 0 = .ok .synTmo ∧
  decode 0b010_00000000#11 .hunt 0 = .ok .synErr ∧
  decode 0b000_00001111#11 .hdr 1 = .ok (.asmHdr 0x0F) ∧
  decode 0b000_00001000#11 .hdr 4 = .ok (.asmLen 0x08) ∧
  decode 0b000_00111100#11 .payload 7 = .ok (.asmPay 0x3C) ∧
  decode 0b001_00000000#11 .hdr 3 = .ok .asmTmo ∧
  decode 0b010_00000000#11 .payload 6 = .ok .asmErr ∧
  decode 0b000_00000001#11 .ckHi 13 = .ok (.cksHi 0x01) ∧
  decode 0b000_00001011#11 .ckLo 13 = .ok (.cksLo 0x0B) ∧
  decode 0b100_00000000#11 .payload 9 = .ok .reset ∧
  decode 0b011_00000000#11 .hunt 0 = .ok .evRsvd

/-- Decoding the encoding of a well-formed instruction gives it back; and whatever a word decodes to is well-formed in
that phase and encodes to the word with its ignored bits made canonical (R74, R80). -/
def Obligations.DecodeAndEncodeAgree : Prop :=
  (∀ (i : Instr) (p : Phase) (idx : Count), i.wellFormedAt p idx = true → decode (encode i) p idx = .ok i) ∧
  (∀ (iw : InputWord) (p : Phase) (idx : Count) (i : Instr), decode iw p idx = .ok i →
    i.wellFormedAt p idx = true ∧ encode i = canonicalWord iw)

/-- R74: the layout of the input word, the canonical words, and that ignored bits change neither the operation selected
nor its effect. -/
def Obligations.InputWordLayoutAndIgnoredBits : Prop :=
  (∀ (rst : BitVec 1) (kind : BitVec 2) (data : Byte),
    (mkInputWord rst kind data).toNat = 1024 * rst.toNat + 256 * kind.toNat + data.toNat) ∧
  (∀ iw : InputWord, (iwRst iw = true ↔ 1024 ≤ iw.toNat) ∧ (iwKind iw).toNat = iw.toNat / 256 % 4 ∧
    (iwData iw).toNat = iw.toNat % 256) ∧
  (kindByte = 0b00 ∧ kindTimeout = 0b01 ∧ kindIoerr = 0b10 ∧ kindReserved = 0b11) ∧
  (∀ b : Byte, (byteWord b).toNat = b.toNat) ∧
  (timeoutWord = 0x100 ∧ ioerrWord = 0x200 ∧ resetWord = 0x400) ∧
  (∀ iw iw' : InputWord,
    (iwRst iw = true ∧ iwRst iw' = true) ∨
      (iwRst iw = false ∧ iwRst iw' = false ∧ iwKind iw = iwKind iw' ∧ iwKind iw ≠ kindByte) →
    (∀ (p : Phase) (idx : Count), decode iw p idx = decode iw' p idx) ∧ ∀ s : State, react iw s = react iw' s)

/-- R80: the dispatch function, row by row. -/
def Obligations.DispatchSelectsByWordPhaseAndIndex : Prop :=
  (∀ (d : BitVec 10) (p : Phase) (idx : Count), decode (1#1 ++ d) p idx = .ok .reset) ∧
  (∀ (d : Byte) (p : Phase) (idx : Count), decode (mkInputWord 0 0b11 d) p idx = .ok .evRsvd) ∧
  (∀ (b : Byte) (idx : Count),
    decode (mkInputWord 0 0b00 b) .hunt idx = .ok (.synByte b) ∧
    (idx < 4 → decode (mkInputWord 0 0b00 b) .hdr idx = .ok (.asmHdr b)) ∧
    (idx = 4 → decode (mkInputWord 0 0b00 b) .hdr idx = .ok (.asmLen b)) ∧
    decode (mkInputWord 0 0b00 b) .payload idx = .ok (.asmPay b) ∧
    decode (mkInputWord 0 0b00 b) .ckHi idx = .ok (.cksHi b) ∧
    decode (mkInputWord 0 0b00 b) .ckLo idx = .ok (.cksLo b)) ∧
  (∀ (d : Byte) (idx : Count),
    decode (mkInputWord 0 0b01 d) .hunt idx = .ok .synTmo ∧
    (∀ p : Phase, p ≠ .hunt → decode (mkInputWord 0 0b01 d) p idx = .ok .asmTmo) ∧
    decode (mkInputWord 0 0b10 d) .hunt idx = .ok .synErr ∧
    (∀ p : Phase, p ≠ .hunt → decode (mkInputWord 0 0b10 d) p idx = .ok .asmErr))

/-- R81: in every state that meets the invariants, every admitted word selects exactly one operation, which answers a
next state with one outcome; `HDR` with `idx > 4` is ruled out by the invariants. -/
def Obligations.AdmittedWordsAlwaysComplete : Prop :=
  ∀ s : State, Inv s →
    (s.phase = .hdr → s.idx ≤ 4) ∧
    ∀ iw : InputWord, (iwKind iw ≠ 0b11 ∨ iwRst iw = true) →
      ∃ (i : Instr) (t : State) (o : StepOutcome),
        decode iw s.phase s.idx = .ok i ∧ i ≠ .evRsvd ∧ exec i s = .next t ∧ react iw s = .next t ∧ t.out = some o

/-- A step is the execution of the decoded instruction on the state whose trace no longer holds the consumed word; in
particular the canonical word of a well-formed instruction runs that instruction; with no word waiting, the edge changes
nothing but the outcome strobe (log 2, log 4). -/
def Obligations.StepRunsTheDecodedInstruction : Prop :=
  (∀ (s : State) (iw : InputWord) (rest : List InputWord) (i : Instr),
    s.trace = iw :: rest → decode iw s.phase s.idx = .ok i → step s = exec i { s with trace := rest }) ∧
  (∀ (s : State) (i : Instr) (rest : List InputWord),
    s.trace = encode i :: rest → i.wellFormedAt s.phase s.idx = true → step s = exec i { s with trace := rest }) ∧
  (∀ s : State, s.trace = [] → step s = .next { s with out := none })

/-! ### The operations -/

/-- R100: `SYN.BYTE`, its encoding and its whole effect. -/
def Obligations.SynByteSlidesTheWindowOrStartsAFrame : Prop :=
  ∀ (s : State) (b : Byte),
    (s.phase = .hunt → decode (mkInputWord 0 0b00 b) s.phase s.idx = .ok (.synByte b)) ∧
    (min (s.winN.toNat + 1) 4 = 4 ∧ s.win.b1 = 0xFF ∧ s.win.b2 = 0x00 ∧ s.win.b3 = 0xFF ∧ b = 0xA5 →
      exec (.synByte b) s = .next { s with
        out := some .synchronized, phase := .hdr, idx := 0, sum := s.cfg.cksumSeed, pktValid := false,
        win := { b0 := 0, b1 := 0, b2 := 0, b3 := 0 }, winN := 0 }) ∧
    (¬(min (s.winN.toNat + 1) 4 = 4 ∧ s.win.b1 = 0xFF ∧ s.win.b2 = 0x00 ∧ s.win.b3 = 0xFF ∧ b = 0xA5) →
      exec (.synByte b) s = .next { s with
        out := some .quiet, win := { b0 := s.win.b1, b1 := s.win.b2, b2 := s.win.b3, b3 := b },
        winN := BitVec.ofNat 3 (min (s.winN.toNat + 1) 4) })

/-- R102: `SYN.TMO`. -/
def Obligations.SynTmoReportsBusIdle : Prop :=
  ∀ (s : State) (d : Byte),
    (s.phase = .hunt → decode (mkInputWord 0 0b01 d) s.phase s.idx = .ok .synTmo) ∧
    exec .synTmo s = .next { s with
      out := some .busIdle, phase := .hunt, win := { b0 := 0, b1 := 0, b2 := 0, b3 := 0 }, winN := 0 }

/-- R104: `SYN.ERR`. -/
def Obligations.SynErrReportsIoFailure : Prop :=
  ∀ (s : State) (d : Byte),
    (s.phase = .hunt → decode (mkInputWord 0 0b10 d) s.phase s.idx = .ok .synErr) ∧
    exec .synErr s = .next { s with
      out := some .ioFailure, phase := .hunt, win := { b0 := 0, b1 := 0, b2 := 0, b3 := 0 }, winN := 0 }

/-- R120: `ASM.HDR`, in every state with `idx < 4`. -/
def Obligations.AsmHdrStoresSumsAndCounts : Prop :=
  ∀ (s : State) (b : Byte), s.idx < 4 →
    (s.phase = .hdr → decode (mkInputWord 0 0b00 b) s.phase s.idx = .ok (.asmHdr b)) ∧
    ∃ t : State, exec (.asmHdr b) s = .next t ∧
      t = { s with out := some .quiet, buf := t.buf, sum := s.sum + b.setWidth 16, idx := s.idx + 1 } ∧
      t.buf.cell? s.idx.toNat = some b ∧
      (∀ a, a ≠ s.idx.toNat → t.buf.cell? a = s.buf.cell? a ∧ t.buf.byteAt a = s.buf.byteAt a)

/-- R122: `ASM.LEN`, its encoding, its writes, and its three ways on. -/
def Obligations.AsmLenStoresAndJudgesTheLength : Prop :=
  ∀ (s : State) (b : Byte),
    (s.phase = .hdr → s.idx = 4 → decode (mkInputWord 0 0b00 b) s.phase s.idx = .ok (.asmLen b)) ∧
    ∃ t : State, exec (.asmLen b) s = .next t ∧
      t.buf.cell? 4 = some b ∧
      (∀ a, a ≠ 4 → t.buf.cell? a = s.buf.cell? a ∧ t.buf.byteAt a = s.buf.byteAt a) ∧
      (s.cfg.maxPayload.toNat < b.toNat →
        t = { s with
          buf := t.buf, sum := s.sum + b.setWidth 16, idx := 5, len := b, out := some (.lengthOutOfRange b),
          phase := .hunt, win := { b0 := 0, b1 := 0, b2 := 0, b3 := 0 }, winN := 0 }) ∧
      (b.toNat ≤ s.cfg.maxPayload.toNat → b = 0 →
        t = { s with
          buf := t.buf, sum := s.sum + b.setWidth 16, idx := 5, len := b, out := some .quiet, phase := .ckHi }) ∧
      (b.toNat ≤ s.cfg.maxPayload.toNat → b ≠ 0 →
        t = { s with
          buf := t.buf, sum := s.sum + b.setWidth 16, idx := 5, len := b, out := some .quiet, phase := .payload })

/-- R124: `ASM.PAY`, wherever the cell it writes exists (R33 I7 says that this is every reachable state). -/
def Obligations.AsmPayStoresAndEndsThePayload : Prop :=
  ∀ (s : State) (b : Byte), s.idx.toNat < s.cfg.bufSize →
    (s.phase = .payload → decode (mkInputWord 0 0b00 b) s.phase s.idx = .ok (.asmPay b)) ∧
    ∃ t : State, exec (.asmPay b) s = .next t ∧
      t = { s with
        out := some .quiet, buf := t.buf, sum := s.sum + b.setWidth 16, idx := s.idx + 1,
        phase := if s.idx.toNat + 1 = 5 + s.len.toNat then .ckHi else s.phase } ∧
      t.buf.cell? s.idx.toNat = some b ∧
      (∀ a, a ≠ s.idx.toNat → t.buf.cell? a = s.buf.cell? a ∧ t.buf.byteAt a = s.buf.byteAt a)

/-- R126: `ASM.TMO`, and the bound on `got` in states that meet the invariants. -/
def Obligations.AsmTmoReportsShortRead : Prop :=
  ∀ (s : State) (d : Byte),
    (s.phase ≠ .hunt → decode (mkInputWord 0 0b01 d) s.phase s.idx = .ok .asmTmo) ∧
    exec .asmTmo s = .next { s with
      out := some (.shortRead (s.idx + (if s.phase = .ckLo then 1 else 0))),
      phase := .hunt, win := { b0 := 0, b1 := 0, b2 := 0, b3 := 0 }, winN := 0 } ∧
    (Inv s → s.phase ≠ .hunt →
      (s.idx + (if s.phase = .ckLo then 1 else 0) : Count).toNat = s.idx.toNat + (if s.phase = .ckLo then 1 else 0) ∧
      (s.idx + (if s.phase = .ckLo then 1 else 0) : Count).toNat ≤ 6 + s.len.toNat ∧ s.pktValid = false)

/-- R128: `ASM.ERR`. -/
def Obligations.AsmErrReportsIoFailure : Prop :=
  ∀ (s : State) (d : Byte),
    (s.phase ≠ .hunt → decode (mkInputWord 0 0b10 d) s.phase s.idx = .ok .asmErr) ∧
    exec .asmErr s = .next { s with
      out := some .ioFailure, phase := .hunt, win := { b0 := 0, b1 := 0, b2 := 0, b3 := 0 }, winN := 0 } ∧
    (Inv s → s.phase ≠ .hunt → s.pktValid = false)

/-- R156: `CKS.HI`. -/
def Obligations.CksHiHoldsTheHighByte : Prop :=
  ∀ (s : State) (b : Byte),
    (s.phase = .ckHi → decode (mkInputWord 0 0b00 b) s.phase s.idx = .ok (.cksHi b)) ∧
    exec (.cksHi b) s = .next { s with out := some .quiet, ckHi := b, phase := .ckLo }

/-- R158: `CKS.LO`. A frame that matches is delivered wherever `idx` lies in the buffer (R33 I7 says that this is every
reachable state); one that does not match is discarded. -/
def Obligations.CksLoDeliversOrDiscards : Prop :=
  ∀ (s : State) (b : Byte),
    (s.phase = .ckLo → decode (mkInputWord 0 0b00 b) s.phase s.idx = .ok (.cksLo b)) ∧
    (256 * s.ckHi.toNat + b.toNat = s.sum.toNat → s.idx.toNat ≤ s.cfg.bufSize →
      ∃ packet : List Byte,
        packet.length = s.idx.toNat ∧ (∀ a, a < s.idx.toNat → packet[a]? = some (s.buf.byteAt a)) ∧
        exec (.cksLo b) s = .next { s with
          out := some (.packetOk packet), pktValid := true, pktLen := s.idx,
          phase := .hunt, win := { b0 := 0, b1 := 0, b2 := 0, b3 := 0 }, winN := 0 }) ∧
    (256 * s.ckHi.toNat + b.toNat ≠ s.sum.toNat →
      exec (.cksLo b) s = .next { s with
        out := some .checksumMismatch,
        phase := .hunt, win := { b0 := 0, b1 := 0, b2 := 0, b3 := 0 }, winN := 0 }) ∧
    (Inv s → s.phase = .ckLo → s.idx.toNat = 5 + s.len.toNat ∧ s.pktValid = false)

/-- `RESET` has priority over every event in every phase, and leaves the reset values of R170: the reset state, the same
from every prior state. That no cell of `buf` counts as written afterwards follows R34, and that such a cell is unlisted is
the model's form of it (log 16). -/
def Obligations.ResetClearsEverythingButTheBuffer : Prop :=
  ∀ s : State,
    (∀ iw : InputWord, iwRst iw = true → decode iw s.phase s.idx = .ok .reset) ∧
    exec .reset s = .next { s with
      phase := .hunt, win := { b0 := 0, b1 := 0, b2 := 0, b3 := 0 }, winN := 0, idx := 0, len := 0, sum := 0, ckHi := 0,
      pktValid := false, pktLen := 0, buf := [], out := some .quiet } ∧
    exec .reset s = .next { State.reset with cfg := s.cfg, trace := s.trace, out := some .quiet }

/-- R172: the reserved kind is refused in every state: no next state and no outcome. -/
def Obligations.ReservedEventIsRefused : Prop :=
  ∀ (s : State) (iw : InputWord), iwRst iw = false → iwKind iw = 0b11 →
    decode iw s.phase s.idx = .ok .evRsvd ∧ exec .evRsvd s = .refused .reservedEvent ∧
    react iw s = .refused .reservedEvent

/-- The model's own stops (log 6, log 7), all in states that no run reaches (R33): a body byte or a packet to deliver that
lies outside the buffer faults, and a header byte with `idx > 4` selects no operation. -/
def Obligations.StopsOutsideTheInvariants : Prop :=
  ∀ (s : State) (b : Byte),
    (s.cfg.bufSize ≤ s.idx.toNat →
      exec (.asmHdr b) s = .fault .outsideBuffer ∧ exec (.asmPay b) s = .fault .outsideBuffer) ∧
    (s.cfg.bufSize < s.idx.toNat → 256 * s.ckHi.toNat + b.toNat = s.sum.toNat →
      exec (.cksLo b) s = .fault .outsideBuffer) ∧
    (s.phase = .hdr → 4 < s.idx →
      react (mkInputWord 0 0b00 b) s = .refused .noOperation) ∧
    (Inv s → (s.phase = .hdr ∨ s.phase = .payload → s.idx.toNat < s.cfg.bufSize) ∧ s.idx.toNat ≤ s.cfg.bufSize ∧
      ¬(s.phase = .hdr ∧ 4 < s.idx))

/-! ### Frames -/

/-- The operations that store nothing leave every register alone but those their rules name, and every cell of `buf`; but
after `RESET`, whose contents R34 leaves unspecified, no cell counts as written (log 16). -/
def Obligations.FrameOfTheOperationsThatStoreNothing : Prop :=
  ∀ (i : Instr) (s t : State), exec i s = .next t →
    (match i with
      | .asmHdr _ => False
      | .asmLen _ => False
      | .asmPay _ => False
      | _ => True) →
    (match i with
      | .reset => ∀ a, t.buf.cell? a = none
      | _ => ∀ a, t.buf.cell? a = s.buf.cell? a ∧ t.buf.byteAt a = s.buf.byteAt a) ∧
    t.cfg = s.cfg ∧ t.trace = s.trace ∧
    (match i with
      | .synByte _ => t.len = s.len ∧ t.ckHi = s.ckHi ∧ t.pktLen = s.pktLen ∧
          (t.out ≠ some .synchronized →
            t.phase = s.phase ∧ t.idx = s.idx ∧ t.sum = s.sum ∧ t.pktValid = s.pktValid)
      | .cksHi _ => t.win = s.win ∧ t.winN = s.winN ∧ t.idx = s.idx ∧ t.len = s.len ∧ t.sum = s.sum ∧
          t.pktValid = s.pktValid ∧ t.pktLen = s.pktLen
      | .cksLo _ => t.idx = s.idx ∧ t.len = s.len ∧ t.sum = s.sum ∧ t.ckHi = s.ckHi ∧
          (t.out = some .checksumMismatch → t.pktValid = s.pktValid ∧ t.pktLen = s.pktLen)
      | .reset => True
      | _ => t.idx = s.idx ∧ t.len = s.len ∧ t.sum = s.sum ∧ t.ckHi = s.ckHi ∧ t.pktValid = s.pktValid ∧
          t.pktLen = s.pktLen)

/-- The operations that store leave every cell but the one they store to alone (`idx` for `ASM.HDR` and `ASM.PAY`, 4 for
`ASM.LEN`), and every register but those their rules name. -/
def Obligations.FrameOfTheOperationsThatStore : Prop :=
  ∀ (i : Instr) (s t : State) (address : Nat), exec i s = .next t →
    (match i with
      | .asmHdr _ => address = s.idx.toNat
      | .asmLen _ => address = 4
      | .asmPay _ => address = s.idx.toNat
      | _ => False) →
    (∀ a, a ≠ address → t.buf.cell? a = s.buf.cell? a ∧ t.buf.byteAt a = s.buf.byteAt a) ∧
    t.ckHi = s.ckHi ∧ t.pktValid = s.pktValid ∧ t.pktLen = s.pktLen ∧ t.cfg = s.cfg ∧ t.trace = s.trace ∧
    (match i with
      | .asmHdr _ => t.phase = s.phase ∧ t.win = s.win ∧ t.winN = s.winN ∧ t.len = s.len
      | .asmLen b => b.toNat ≤ s.cfg.maxPayload.toNat → t.win = s.win ∧ t.winN = s.winN
      | _ => t.win = s.win ∧ t.winN = s.winN ∧ t.len = s.len)

/-! ### Reset and the invariants -/

/-- The reset state (R34), with nothing of `buf` written. -/
def Obligations.ResetStateValues : Prop :=
  State.reset.phase = .hunt ∧ State.reset.win = { b0 := 0, b1 := 0, b2 := 0, b3 := 0 } ∧ State.reset.winN = 0 ∧
  State.reset.idx = 0 ∧ State.reset.len = 0 ∧ State.reset.sum = 0 ∧ State.reset.ckHi = 0 ∧
  State.reset.pktValid = false ∧ State.reset.pktLen = 0 ∧ ∀ a, State.reset.buf.cell? a = none

/-- The reset state meets the invariants, whatever the parameters and the trace to come. -/
def Obligations.ResetMeetsTheInvariants : Prop :=
  ∀ (c : Config) (ws : List InputWord), Inv { State.reset with cfg := c, trace := ws }

/-- Every step from a state that meets the invariants of R33 leads to one that does. -/
def Obligations.EveryStepKeepsTheInvariants : Prop :=
  ∀ s t : State, Inv s → step s = .next t → Inv t

/-- From any state that meets the invariants, every trace of admitted words runs to its end without a stop, one word a
step, and every state on the way meets the invariants (R15, R81). -/
def Obligations.TheBlockNeverStops : Prop :=
  ∀ s : State, Inv s → traceAdmitted s → ∀ k, k ≤ s.trace.length →
    ∃ t : State, runsTo k s t ∧ Inv t ∧ t.trace = s.trace.drop k ∧ t.cfg = s.cfg

/-! ### Whole-machine rules -/

/-- R84: every step follows the transition table in its next phase and its outcome (as R78 encodes it), and the table has
a row for every admitted word in every state that meets the invariants. -/
def Obligations.EveryStepFollowsTheTransitionTable : Prop :=
  ∀ (s : State) (iw : InputWord), Inv s → admitted iw = true →
    ∃ (t : State) (o : StepOutcome), react iw s = .next t ∧ t.out = some o ∧
      transition s iw = some { next := t.phase, kind := (outKind o).toNat, info := (outInfo o).toNat }

/-- R78: the outcome word of each outcome, and the ranges of its information in states that meet the invariants. -/
def Obligations.OutcomeWordCodes : Prop :=
  (outKind .quiet = 0 ∧ outInfo .quiet = 0) ∧
  (outKind .synchronized = 1 ∧ outInfo .synchronized = 0) ∧
  (outKind .busIdle = 2 ∧ outInfo .busIdle = 0) ∧
  (outKind .ioFailure = 3 ∧ outInfo .ioFailure = 0) ∧
  (∀ p, outKind (.packetOk p) = 4) ∧
  (outKind .checksumMismatch = 5 ∧ outInfo .checksumMismatch = 0) ∧
  (∀ n : Byte, outKind (.lengthOutOfRange n) = 6 ∧ (outInfo (.lengthOutOfRange n)).toNat = n.toNat) ∧
  (∀ got, outKind (.shortRead got) = 7 ∧ outInfo (.shortRead got) = got) ∧
  (∀ (s t : State) (iw : InputWord), Inv s → react iw s = .next t →
    (∀ p, t.out = some (.packetOk p) →
      outInfo (.packetOk p) = t.pktLen ∧ 5 ≤ t.pktLen.toNat ∧ t.pktLen.toNat ≤ 260 ∧
      ∃ n : Byte, p[4]? = some n ∧ t.pktLen.toNat = 5 + n.toNat ∧
        ∀ a : Count, a.toNat < p.length → readPort t a = p[a.toNat]?) ∧
    (∀ got, t.out = some (.shortRead got) → got.toNat ≤ 6 + s.cfg.maxPayload.toNat ∧
      got.toNat = s.idx.toNat + (if s.phase = .ckLo then 1 else 0)))

/-- R186: the state after the step that reports each outcome, from states that meet the invariants. -/
def Obligations.StateAfterEachOutcome : Prop :=
  ∀ (s t : State) (iw : InputWord) (o : StepOutcome), Inv s → react iw s = .next t → t.out = some o → o ≠ .quiet →
    windowClear t ∧
    (o = .synchronized →
      t.phase = .hdr ∧ t.pktValid = false ∧ t.pktLen = s.pktLen ∧ t.idx = 0 ∧ t.sum = s.cfg.cksumSeed ∧
      t.len = s.len ∧ t.ckHi = s.ckHi ∧ t.buf = s.buf) ∧
    (o ≠ .synchronized → t.phase = .hunt) ∧
    ((∀ p, o ≠ .packetOk p) → t.pktLen = s.pktLen) ∧
    (o = .busIdle → s.phase = .hunt ∧ t.pktValid = s.pktValid) ∧
    (o = .ioFailure → s.phase = .hunt → t.pktValid = s.pktValid) ∧
    (o = .ioFailure → s.phase ≠ .hunt → s.pktValid = false ∧ t.pktValid = false) ∧
    (∀ p, o = .packetOk p → t.pktValid = true ∧ t.pktLen = s.idx ∧ s.idx.toNat = 5 + s.len.toNat) ∧
    (o = .checksumMismatch → s.pktValid = false ∧ t.pktValid = false) ∧
    (∀ n, o = .lengthOutOfRange n →
      s.pktValid = false ∧ t.pktValid = false ∧ t.buf.cell? 4 = some n ∧ t.len = n ∧ t.idx = 5 ∧
      t.sum = s.sum + n.setWidth 16 ∧ t.ckHi = s.ckHi ∧ ∀ a, a ≠ 4 → t.buf.cell? a = s.buf.cell? a) ∧
    (∀ got, o = .shortRead got → s.pktValid = false ∧ t.pktValid = false) ∧
    (o ≠ .synchronized → (∀ n, o ≠ .lengthOutOfRange n) →
      t.buf = s.buf ∧ t.idx = s.idx ∧ t.len = s.len ∧ t.sum = s.sum ∧ t.ckHi = s.ckHi)

/-- R105: the window is clear after reset and after every outcome but `None`, and bytes consumed within a frame never
enter it. -/
def Obligations.WindowIsClearWheneverHuntingStarts : Prop :=
  windowClear State.reset ∧
  ∀ (s t : State) (iw : InputWord), Inv s → react iw s = .next t →
    (iwRst iw = true → windowClear t) ∧ (t.out ≠ some .quiet → windowClear t) ∧ (s.phase ≠ .hunt → windowClear t)

/-- R27: `pkt_valid` is set by `CKS.LO` when and only when the checksum matches, cleared by `SYN.BYTE` at a match and by
`RESET`, and written by nothing else; hunting without a match leaves the packet readable. That the read port answers
nothing while it is 0 is the model's choice of the treatments R53 allows (log 10). -/
def Obligations.WhoWritesPacketValid : Prop :=
  (∀ (i : Instr) (s t : State), exec i s = .next t →
    t.pktValid =
      match i with
      | .cksLo b => if 256 * s.ckHi.toNat + b.toNat = s.sum.toNat then true else s.pktValid
      | .synByte b =>
        if 3 ≤ s.winN.toNat ∧ [s.win.b1, s.win.b2, s.win.b3, b] = [0xFF, 0x00, 0xFF, 0xA5] then false else s.pktValid
      | .reset => false
      | _ => s.pktValid) ∧
  (∀ (s : State) (a : Count), s.pktValid = false → readPort s a = none) ∧
  (∀ (i : Instr) (s t : State) (a : Count), exec i s = .next t →
    (i = .synTmo ∨ i = .synErr ∨ (∃ b, i = .synByte b) ∧ t.out ≠ some .synchronized) → readPort t a = readPort s a)

/-- R28: `pkt_len` is written with `idx` by a successful `CKS.LO` and otherwise only by `RESET`, and it is a packet's
length while `pkt_valid = 1`. -/
def Obligations.WhoWritesPacketLength : Prop :=
  (∀ (i : Instr) (s t : State), exec i s = .next t →
    t.pktLen =
      match i with
      | .cksLo b => if 256 * s.ckHi.toNat + b.toNat = s.sum.toNat then s.idx else s.pktLen
      | .reset => 0
      | _ => s.pktLen) ∧
  (∀ s : State, Inv s →
    (s.pktLen = 0 ∨ 5 ≤ s.pktLen.toNat) ∧
    (s.pktValid = true → 5 ≤ s.pktLen.toNat ∧ s.pktLen.toNat ≤ 5 + s.cfg.maxPayload.toNat ∧
      s.pktLen.toNat = 5 + (s.buf.byteAt 4).toNat)) ∧
  (∀ (s t : State) (b : Byte), Inv s → s.phase = .ckLo → exec (.cksLo b) s = .next t →
    t.pktValid = true → t.pktLen.toNat = 5 + s.len.toNat)

/-- A write to `buf` is one byte at `idx`, the data byte of the event, in exactly the steps of `ASM.HDR`, `ASM.LEN` and
`ASM.PAY`; addresses ascend from 0 in each frame and stay below `BUF_SIZE` (R52). `RESET` stores nothing either; that no
cell counts as written after it follows R34, in the model's form (log 16). -/
def Obligations.WhoWritesTheBuffer : Prop :=
  ∀ (s t : State) (iw : InputWord) (i : Instr), Inv s → decode iw s.phase s.idx = .ok i → exec i s = .next t →
    (match i with
      | .asmHdr b => iw = mkInputWord 0 0b00 b ∧ s.idx.toNat < s.cfg.bufSize ∧ t.idx.toNat = s.idx.toNat + 1 ∧
          ∀ a, t.buf.cell? a = if a = s.idx.toNat then some b else s.buf.cell? a
      | .asmLen b => iw = mkInputWord 0 0b00 b ∧ s.idx.toNat < s.cfg.bufSize ∧ t.idx.toNat = s.idx.toNat + 1 ∧
          (∀ a, t.buf.cell? a = if a = s.idx.toNat then some b else s.buf.cell? a) ∧
          (s.cfg.maxPayload.toNat < b.toNat → t.phase = .hunt)
      | .asmPay b => iw = mkInputWord 0 0b00 b ∧ s.idx.toNat < s.cfg.bufSize ∧ t.idx.toNat = s.idx.toNat + 1 ∧
          ∀ a, t.buf.cell? a = if a = s.idx.toNat then some b else s.buf.cell? a
      | .reset => ∀ a, t.buf.cell? a = none
      | _ => t.buf = s.buf) ∧
    (t.out = some .synchronized → t.idx = 0)

/-- R150 and R151: the accumulator is loaded with the seed at a preamble match, takes each header and payload byte once
as a 16-bit modular addition, and nothing else (the checksum bytes among them) is ever added. -/
def Obligations.WhoWritesTheSum : Prop :=
  Config.reference.cksumSeed = 0x00A5 ∧
  ∀ (i : Instr) (s t : State), exec i s = .next t →
    (match i with
      | .asmHdr b => t.sum.toNat = (s.sum.toNat + b.toNat) % 65536
      | .asmLen b => t.sum.toNat = (s.sum.toNat + b.toNat) % 65536
      | .asmPay b => t.sum.toNat = (s.sum.toNat + b.toNat) % 65536
      | .synByte _ => t.sum = if t.out = some .synchronized then s.cfg.cksumSeed else s.sum
      | .reset => t.sum = 0
      | _ => t.sum = s.sum)

/-- `idx`, `len` and `ck_hi` change only where R23, R24 and R26 say. -/
def Obligations.WhoWritesTheCounterTheLengthAndTheHighByte : Prop :=
  ∀ (i : Instr) (s t : State), exec i s = .next t →
    (t.idx =
      match i with
      | .asmHdr _ => s.idx + 1
      | .asmLen _ => 5
      | .asmPay _ => s.idx + 1
      | .synByte _ => if t.out = some .synchronized then 0 else s.idx
      | .reset => 0
      | _ => s.idx) ∧
    (t.len =
      match i with
      | .asmLen b => b
      | .reset => 0
      | _ => s.len) ∧
    (t.ckHi =
      match i with
      | .cksHi b => b
      | .reset => 0
      | _ => s.ckHi)

/-- The read port answers the byte of `buf` inside its gate, as R53 says; that it answers none outside it is the model's
choice of the two treatments R53 allows (log 10). -/
def Obligations.ReadPortIsGated : Prop :=
  ∀ (s : State) (raddr : Count),
    (s.pktValid = true ∧ raddr.toNat < s.pktLen.toNat → readPort s raddr = some (s.buf.byteAt raddr.toNat)) ∧
    (¬(s.pktValid = true ∧ raddr.toNat < s.pktLen.toNat) → readPort s raddr = none)

/-- The header taps are `buf[0..4]` by name while `pkt_valid = 1`, with the version bit, and add nothing that the read port
does not give, as R56 says; that none has a value while `pkt_valid = 0` is the model's choice (log 10): R56 says only that
they are not meaningful. -/
def Obligations.HeaderTapsAreTheFirstFiveBytes : Prop :=
  (∀ (s : State) (raddr : Count), s.pktValid = true →
    (outPins s raddr).hdrVersion = some (s.buf.byteAt 0) ∧ (outPins s raddr).hdrDestination = some (s.buf.byteAt 1) ∧
    (outPins s raddr).hdrSource = some (s.buf.byteAt 2) ∧ (outPins s raddr).hdrCommand = some (s.buf.byteAt 3) ∧
    (outPins s raddr).hdrLen = some (s.buf.byteAt 4) ∧
    (outPins s raddr).verValid = some (decide (s.buf.byteAt 0 = 0x00 ∨ s.buf.byteAt 0 = 0x01))) ∧
  (∀ (s : State) (raddr : Count), s.pktValid = false →
    (outPins s raddr).hdrVersion = none ∧ (outPins s raddr).hdrDestination = none ∧
    (outPins s raddr).hdrSource = none ∧ (outPins s raddr).hdrCommand = none ∧ (outPins s raddr).hdrLen = none ∧
    (outPins s raddr).verValid = none) ∧
  (∀ (s : State) (a : Count), Inv s → a < 5 → headerTap s a.toNat = readPort s a)

/-- R54: the outcome `PacketOk` carries `buf[0 .. pkt_len-1]` as it stands at the end of the step, `5 + N` bytes; the read
port gives the same bytes; and the packet passed the check: its checksum is the 16 bits received. -/
def Obligations.DeliveredPacketIsTheCheckedBuffer : Prop :=
  ∀ (s t : State) (iw : InputWord) (packet : List Byte), Inv s → react iw s = .next t →
    t.out = some (.packetOk packet) →
    packet.length = t.pktLen.toNat ∧ t.pktLen.toNat = 5 + (t.buf.byteAt 4).toNat ∧
    packet[4]? = some (t.buf.byteAt 4) ∧ (t.buf.byteAt 4).toNat ≤ s.cfg.maxPayload.toNat ∧
    (∀ a : Count, a.toNat < packet.length →
      packet[a.toNat]? = some (t.buf.byteAt a.toNat) ∧ (t.buf.cell? a.toNat).isSome = true ∧
      readPort t a = packet[a.toNat]?) ∧
    (checksum s.cfg.cksumSeed packet).toNat = 256 * s.ckHi.toNat + (iwData iw).toNat

/-- R216: from the step that reports `PacketOk` until the next `Synchronized` or reset, every read of the packet answers
as before After a `Synchronized` the port is shut; that every read then answers none is the model's choice of the treatments
R53 allows (log 10). -/
def Obligations.PacketStaysReadableUntilTheNextMatch : Prop :=
  ∀ (s t : State) (iw : InputWord), Inv s → s.pktValid = true → iwRst iw = false → react iw s = .next t →
    (t.out ≠ some .synchronized →
      t.pktValid = true ∧ t.pktLen = s.pktLen ∧ ∀ a, readPort t a = readPort s a ∧ headerTap t a.toNat = headerTap s a.toNat) ∧
    (t.out = some .synchronized → (∀ a, readPort t a = none) ∧ t.buf = s.buf)

/-- R216: with the window clear, as `PacketOk` leaves it, none of the next three steps reports `Synchronized`, whatever
the trace. -/
def Obligations.NoMatchWithinThreeStepsOfAClearWindow : Prop :=
  ∀ (s t : State) (k : Nat), huntsAfresh s → 1 ≤ k → k ≤ 3 → runsTo k s t → t.out ≠ some .synchronized

/-- R106 and R218: within a frame no byte is a synchronization point: whatever the word, the step reports no
`Synchronized` and does not start a header afresh. -/
def Obligations.NoMatchInsideAFrame : Prop :=
  ∀ (s t : State) (iw : InputWord), s.phase ≠ .hunt → react iw s = .next t →
    t.out ≠ some .synchronized ∧ (t.phase = .hdr → s.phase = .hdr ∧ t.idx = s.idx + 1)

/-! ### Runs -/

/-- R101: from a clear window, the step that consumes the last byte of the first preamble reports `Synchronized`, every
earlier step reports `None`, and the next byte is header offset 0. -/
def Obligations.SynchronizesAtTheFirstPreamble : Prop :=
  ∀ (s : State) (bytes : List Byte) (rest : List InputWord) (k : Nat),
    huntsAfresh s → s.trace = byteWords bytes ++ rest → preambleEndsAt bytes k → (∀ j, j < k → ¬preambleEndsAt bytes j) →
    quietFor k s ∧
    ∃ t : State, runsTo (k + 1) s t ∧ t.out = some .synchronized ∧ FrameStart t ∧
      t.trace = byteWords (bytes.drop (k + 1)) ++ rest

/-- R33 I8 with R22: while no preamble is complete, the window sequence is exactly the last bytes consumed since the
window was clear, four at most. -/
def Obligations.WindowHoldsTheLatestBytes : Prop :=
  ∀ (s : State) (bytes : List Byte) (rest : List InputWord),
    huntsAfresh s → s.trace = byteWords bytes ++ rest → (∀ j, j < bytes.length → ¬preambleEndsAt bytes j) →
    ∃ t : State, runsTo bytes.length s t ∧ t.phase = .hunt ∧ t.winN.toNat = min bytes.length 4 ∧
      windowSeq t.win t.winN = bytes.drop (bytes.length - 4)

/-- R132: after a preamble, a frame body with a length in range and the right checksum is delivered exactly, after
`7 + N` steps of which all but the last report `None`. That the read port answers none beyond the packet is the model's
choice (log 10). -/
def Obligations.GoodFrameIsDeliveredExactly : Prop :=
  ∀ (s : State) (v d src c : Byte) (payload : List Byte) (rest : List InputWord),
    FrameStart s → payload.length ≤ s.cfg.maxPayload.toNat →
    s.trace = byteWords (goodFrame s.cfg.cksumSeed v d src c payload) ++ rest →
    quietFor (6 + payload.length) s ∧
    ∃ t : State, runsTo (7 + payload.length) s t ∧
      t.out = some (.packetOk (v :: d :: src :: c :: BitVec.ofNat 8 payload.length :: payload)) ∧
      huntsAfresh t ∧ t.pktValid = true ∧ t.pktLen.toNat = 5 + payload.length ∧ t.trace = rest ∧
      ∀ a : Count, readPort t a = (v :: d :: src :: c :: BitVec.ofNat 8 payload.length :: payload)[a.toNat]?

/-- R86: `PRE FRAME(...)` is one complete good frame on the wire: from a clear window it is delivered after `11 + N`
steps. -/
def Obligations.PreambleAndFrameAreDelivered : Prop :=
  ∀ (s : State) (v d src c : Byte) (payload : List Byte) (rest : List InputWord),
    huntsAfresh s → payload.length ≤ s.cfg.maxPayload.toNat →
    s.trace = assemble s.cfg.cksumSeed [.pre, .frame v d src c payload] ++ rest →
    reportsAt 4 s .synchronized ∧
    ∃ t : State, runsTo (11 + payload.length) s t ∧
      t.out = some (.packetOk (v :: d :: src :: c :: BitVec.ofNat 8 payload.length :: payload)) ∧
      huntsAfresh t ∧ t.pktValid = true ∧ t.trace = rest

/-- R189: no error is sticky: from every state, in mid-frame or not, one timeout and then a good frame with its preamble
end in the delivery of that frame. -/
def Obligations.ResynchronizesAfterATimeoutInAnyState : Prop :=
  ∀ (s : State) (v d src c : Byte) (payload : List Byte) (rest : List InputWord),
    payload.length ≤ s.cfg.maxPayload.toNat →
    s.trace = assemble s.cfg.cksumSeed [.t, .pre, .frame v d src c payload] ++ rest →
    ∃ t : State, runsTo (12 + payload.length) s t ∧
      t.out = some (.packetOk (v :: d :: src :: c :: BitVec.ofNat 8 payload.length :: payload)) ∧ t.trace = rest

/-- R159: a good frame with exactly one byte changed, at any offset but 4, is reported `ChecksumMismatch` at its last
byte, and no packet becomes readable; that a read then answers none is the model's choice (log 10). -/
def Obligations.SingleByteErrorsAreDetected : Prop :=
  ∀ (s : State) (v d src c : Byte) (payload : List Byte) (rest : List InputWord) (j : Nat) (x : Byte),
    FrameStart s → payload.length ≤ s.cfg.maxPayload.toNat →
    j < 7 + payload.length → j ≠ 4 → (goodFrame s.cfg.cksumSeed v d src c payload)[j]? ≠ some x →
    s.trace = byteWords ((goodFrame s.cfg.cksumSeed v d src c payload).set j x) ++ rest →
    quietFor (6 + payload.length) s ∧
    ∃ t : State, runsTo (7 + payload.length) s t ∧ t.out = some .checksumMismatch ∧ huntsAfresh t ∧
      t.pktValid = false ∧ (∀ a, readPort t a = none) ∧ t.trace = rest

/-- R161's worked case: a good frame whose length byte is changed from 03 to 02 delivers a wrong packet, so that R159
cannot hold at offset 4. It runs from the reset state with the model's `MAX_PAYLOAD` of 64 (log 1). -/
def Obligations.DamagedLengthByteCanBeAccepted : Prop :=
  goodFrame 0x00A5 0x00 0x0F 0x10 0x02 [0x39, 0x00, 0x01] =
    [0x00, 0x0F, 0x10, 0x02, 0x03, 0x39, 0x00, 0x01, 0x01, 0x03] ∧
  reportsAt 13
    { State.reset with
      trace := byteWords [0xFF, 0x00, 0xFF, 0xA5, 0x00, 0x0F, 0x10, 0x02, 0x02, 0x39, 0x00, 0x01, 0x01, 0x03] }
    (.packetOk [0x00, 0x0F, 0x10, 0x02, 0x02, 0x39, 0x00])

/-- R152: the checksum is the sum of the seed and the bytes, modulo `2^16`; it is sent high byte first; and it is what
`sum` holds after the last payload byte. -/
def Obligations.ChecksumIsTheModularSum : Prop :=
  (∀ (seed : Sum16) (body : List Byte),
    (checksum seed body).toNat = (seed.toNat + (body.map BitVec.toNat).sum) % 65536) ∧
  (∀ (seed : Sum16) (body : List Byte), ∃ hi lo : Byte, checksumBytes seed body = [hi, lo] ∧
    256 * hi.toNat + lo.toNat = (checksum seed body).toNat) ∧
  (∀ s : State, Inv s → s.phase = .ckHi ∨ s.phase = .ckLo →
    s.sum = checksum s.cfg.cksumSeed (s.buf.prefixBytes s.idx.toNat))

/-- R153 (b), R160: bytes in another order have the same checksum, so a frame whose header and payload are permuted, its
length byte kept in place, is accepted with the checksum of the original. -/
def Obligations.ReorderedFrameIsAccepted : Prop :=
  (∀ (seed : Sum16) (as bs : List Byte), as.Perm bs → checksum seed as = checksum seed bs) ∧
  ∀ (s : State) (v d src c v' d' src' c' : Byte) (payload payload' : List Byte) (rest : List InputWord),
    FrameStart s → payload.length ≤ s.cfg.maxPayload.toNat →
    (v :: d :: src :: c :: payload).Perm (v' :: d' :: src' :: c' :: payload') →
    s.trace = byteWords (frameBody v' d' src' c' payload' ++
      checksumBytes s.cfg.cksumSeed (frameBody v d src c payload)) ++ rest →
    reportsAt (7 + payload.length) s (.packetOk (frameBody v' d' src' c' payload'))

/-- R154: for the seed `0x00A5` the three forms of the check agree, and the subtraction from the other side is the check
with seed `0xFF5B`. -/
def Obligations.ChecksumFormsAgree : Prop :=
  ∀ (body : List Byte) (rx : Sum16),
    (rx = checksum 0x00A5 body ↔ rx = 0x00A5 + checksum 0 body) ∧
    (rx = checksum 0x00A5 body ↔ rx - 0x00A5 = checksum 0 body) ∧
    (rx = checksum 0x00A5 body ↔ checksum 0 (0xA5 :: body) = rx) ∧
    (checksum 0 body - 0x00A5 = rx ↔ rx = checksum 0xFF5B body)

/-- R12: the reaction to a word is a function of the ten elements, the word and the parameters, and of nothing else: the
trace still to come and the last outcome play no part. -/
def Obligations.ReactionDependsOnNothingElse : Prop :=
  ∀ (s : State) (iw : InputWord) (ws : List InputWord) (o : Option StepOutcome),
    (∀ t, react iw s = .next t → react iw { s with trace := ws, out := o } = .next { t with trace := ws }) ∧
    (∀ e, react iw s = .fault e → react iw { s with trace := ws, out := o } = .fault e) ∧
    (∀ e, react iw s = .refused e → react iw { s with trace := ws, out := o } = .refused e)

/-- R35: in `HUNT` the stale values of `idx`, `len`, `sum` and `ck_hi` make no difference to any later outcome or read. -/
def Obligations.StaleRegistersAreUnobservable : Prop :=
  ∀ (s t : State) (k : Nat) (idx : Count) (len ckHi : Byte) (sum : Sum16), s.phase = .hunt → runsTo k s t →
    ∃ t' : State, runsTo k { s with idx := idx, len := len, sum := sum, ckHi := ckHi } t' ∧ t'.out = t.out ∧
      t'.phase = t.phase ∧ t'.pktValid = t.pktValid ∧ ∀ a, readPort t' a = readPort t a

/-- R34, U10: while hunting with no packet valid, the contents of the buffer make no difference to any later outcome or
read: no byte that the frame itself has not written is ever seen. -/
def Obligations.OldBufferContentsAreUnobservable : Prop :=
  ∀ (s t : State) (k : Nat) (buf : Memory), s.phase = .hunt → s.pktValid = false → runsTo k s t →
    ∃ t' : State, runsTo k { s with buf := buf } t' ∧ t'.out = t.out ∧ t'.phase = t.phase ∧
      t'.pktValid = t.pktValid ∧ ∀ a, readPort t' a = readPort t a

/-! ### Ports -/

/-- R76: which clock edges make a step, the input word they drive, and the outputs of the cycle after. -/
def Obligations.PortsDriveAndShowTheStep : Prop :=
  (∀ (p : InPins) (s : State), p.rst = false → p.evValid = false →
    clockEdge p s = .next { s with out := none } ∧ ∀ a, (outPins { s with out := none } a).outValid = false) ∧
  (∀ (p : InPins) (s : State), p.rst = true ∨ p.evValid = true →
    clockEdge p s = react (mkInputWord (BitVec.ofBool p.rst) p.evKind p.evData) s) ∧
  (∀ (p : InPins) (s t : State) (a : Count), p.rst = true ∨ p.evValid = true → clockEdge p s = .next t →
    ∃ o : StepOutcome, t.out = some o ∧ (outPins t a).outValid = true ∧ (outPins t a).outKind = some (outKind o) ∧
      (outPins t a).outInfo = some (outInfo o) ∧ (outPins t a).evReady = true ∧ (outPins t a).pktValid = t.pktValid ∧
      (outPins t a).pktLen = t.pktLen ∧ (outPins t a).pktRdata = readPort t a)
end

