-- ==== Sys2Proof/Laws/Decode.lean ====
section
/-! SUPPORT. The fields of a built input word, and what the dispatch function makes of each canonical word. -/

namespace Sys2Proof

/-- Bit `i` of a built word. -/
theorem getLsbD_mk (r : BitVec 1) (k : BitVec 2) (d : Byte) (i : Nat) :
    (mkInputWord r k d).getLsbD i =
      if i < 8 then d.getLsbD i else if i < 10 then k.getLsbD (i - 8) else r.getLsbD (i - 10) := by
  show (BitVec.append r (BitVec.append k d)).getLsbD i = _
  have h1 := BitVec.getLsbD_append (x := r) (y := k ++ d) (i := i)
  have h2 := BitVec.getLsbD_append (x := k) (y := d) (i := i)
  refine h1.trans ?_
  rw [h2]
  by_cases h8 : i < 8
  · simp [h8, show i < 2 + 8 by omega]
  · by_cases h10 : i < 10
    · simp [h8, h10]
    · simp [h8, h10]

@[simp] theorem iwRst_mk (r : BitVec 1) (k : BitVec 2) (d : Byte) : iwRst (mkInputWord r k d) = r.getLsbD 0 :=
  getLsbD_mk r k d 10

@[simp] theorem iwKind_mk (r : BitVec 1) (k : BitVec 2) (d : Byte) : iwKind (mkInputWord r k d) = k := by
  refine BitVec.eq_of_getLsbD_eq fun i hi => ?_
  rw [iwKind, BitVec.getLsbD_extractLsb', getLsbD_mk]
  simp [hi, show 8 + i < 10 by omega]

@[simp] theorem iwData_mk (r : BitVec 1) (k : BitVec 2) (d : Byte) : iwData (mkInputWord r k d) = d := by
  refine BitVec.eq_of_getLsbD_eq fun i hi => ?_
  rw [iwData, BitVec.getLsbD_extractLsb', getLsbD_mk]
  simp [hi]

/-- A word is its three fields (R74). -/
theorem mk_fields (iw : InputWord) : mkInputWord (BitVec.ofBool (iwRst iw)) (iwKind iw) (iwData iw) = iw := by
  refine BitVec.eq_of_getLsbD_eq fun i hi => ?_
  rw [getLsbD_mk, iwData, iwKind, BitVec.getLsbD_extractLsb', BitVec.getLsbD_extractLsb']
  by_cases h8 : i < 8
  · simp [h8]
  · by_cases h10 : i < 10
    · simp [h8, h10, show i - 8 < 2 by omega, show 8 + (i - 8) = i by omega]
    · obtain rfl : i = 10 := by omega
      simp [iwRst]

theorem decode_byteWord (b : Byte) (p : Phase) (idx : Count) : decode (byteWord b) p idx = decodeByte b p idx := by
  simp [decode, byteWord, kindByte, kindReserved]

theorem decode_timeoutWord (p : Phase) (idx : Count) :
    decode timeoutWord p idx = .ok (if p = .hunt then .synTmo else .asmTmo) := by
  simp [decode, timeoutWord, kindTimeout, kindByte, kindReserved]

theorem decode_ioerrWord (p : Phase) (idx : Count) :
    decode ioerrWord p idx = .ok (if p = .hunt then .synErr else .asmErr) := by
  simp [decode, ioerrWord, kindIoerr, kindTimeout, kindByte, kindReserved]

theorem decode_resetWord (p : Phase) (idx : Count) : decode resetWord p idx = .ok .reset := by
  simp [decode, resetWord]

theorem decode_reservedWord (p : Phase) (idx : Count) : decode reservedWord p idx = .ok .evRsvd := by
  simp [decode, reservedWord, kindReserved]

/-- Dispatch sees a word only through its fields, and ignores those that R74 says it ignores. -/
theorem decode_cases (iw : InputWord) (p : Phase) (idx : Count) :
    (iwRst iw = true ∧ decode iw p idx = .ok .reset) ∨
    (iwRst iw = false ∧ iwKind iw = kindReserved ∧ decode iw p idx = .ok .evRsvd) ∨
    (iwRst iw = false ∧ iwKind iw = kindByte ∧ decode iw p idx = decodeByte (iwData iw) p idx) ∨
    (iwRst iw = false ∧ iwKind iw = kindTimeout ∧ decode iw p idx = .ok (if p = .hunt then .synTmo else .asmTmo)) ∨
    (iwRst iw = false ∧ iwKind iw = kindIoerr ∧ decode iw p idx = .ok (if p = .hunt then .synErr else .asmErr)) := by
  have hk : ∀ k : BitVec 2, k = kindReserved ∨ k = kindByte ∨ k = kindTimeout ∨ k = kindIoerr := by decide
  unfold decode
  cases hr : iwRst iw
  · rcases hk (iwKind iw) with h | h | h | h <;> simp [h, kindReserved, kindByte, kindTimeout, kindIoerr]
  · simp

/-- `decodeTableWord` reads a word as the machine does right after reset (log 9). -/
theorem decodeTableWord_eq_reset (nbits w : Nat) :
    decodeTableWord nbits w = (tableWord? nbits w).bind fun iw =>
      (decode iw Machine.State.reset.phase Machine.State.reset.idx).toOption := by
  unfold decodeTableWord
  cases tableWord? nbits w with
  | none => rfl
  | some iw =>
    show (match decode iw .hunt 0 with | .ok i => some i | .error _ => none) = (decode iw .hunt 0).toOption
    cases decode iw .hunt 0 <;> rfl

end Sys2Proof
end

