-- ==== Sys2Proof/Laws/Memory.lean ====
section
/-! SUPPORT. The laws of the packet buffer: a read after a write, the canonical form, and the bytes below an address. -/

namespace Sys2Proof.Machine

namespace Memory

@[simp] theorem cell?_nil (a : Nat) : Memory.cell? [] a = none := rfl

@[simp] theorem wf_nil : Memory.wf [] = true := rfl

theorem wf_cons {c : Host.Cell} {m : Memory} :
    Memory.wf (c :: m) = true ↔ (∀ d ∈ m, c.1 < d.1) ∧ Memory.wf m = true := by
  simp [wf, List.pairwise_cons]

/-- A byte written is the byte read. -/
@[simp] theorem cell?_write_same (m : Memory) (a : Nat) (b : Byte) : (m.write a b).cell? a = some b := by
  induction m with
  | nil => simp [write, cell?]
  | cons c m ih =>
    obtain ⟨k, v⟩ := c
    simp only [write]
    split
    · simp [cell?]
    · split
      · simp [cell?]
      · simp [cell?, *]

/-- A write leaves every other cell alone. -/
theorem cell?_write_other (m : Memory) {a a' : Nat} (b : Byte) (h : a' ≠ a) :
    (m.write a b).cell? a' = m.cell? a' := by
  induction m with
  | nil => simp [write, cell?, h]
  | cons c m ih =>
    obtain ⟨k, v⟩ := c
    simp only [write]
    split
    · simp [cell?, h]
    · split
      · subst_vars
        simp [cell?, h]
      · simp [cell?, ih]

theorem cell?_write (m : Memory) (a a' : Nat) (b : Byte) :
    (m.write a b).cell? a' = if a' = a then some b else m.cell? a' := by
  split
  · subst_vars; simp
  · exact cell?_write_other m b ‹_›

/-- A byte written is the byte read. -/
@[simp] theorem byteAt_write_same (m : Memory) (a : Nat) (b : Byte) : (m.write a b).byteAt a = b := by
  simp [byteAt]

/-- A write leaves every other byte alone. -/
theorem byteAt_write_other (m : Memory) {a a' : Nat} (b : Byte) (h : a' ≠ a) :
    (m.write a b).byteAt a' = m.byteAt a' := by
  simp [byteAt, cell?_write_other m b h]

theorem mem_write {m : Memory} {a : Nat} {b : Byte} {c : Host.Cell} (h : c ∈ m.write a b) : c = (a, b) ∨ c ∈ m := by
  induction m with
  | nil => simpa [write] using h
  | cons d m ih =>
    obtain ⟨k, v⟩ := d
    simp only [write] at h
    split at h
    · simpa using h
    · split at h
      · rcases List.mem_cons.1 h with h | h
        · exact .inl h
        · exact .inr (List.mem_cons_of_mem _ h)
      · rcases List.mem_cons.1 h with h | h
        · exact .inr (h ▸ List.mem_cons_self)
        · exact (ih h).imp_right (List.mem_cons_of_mem _)

/-- Every write keeps the canonical form. -/
theorem wf_write {m : Memory} (a : Nat) (b : Byte) (h : m.wf = true) : (m.write a b).wf = true := by
  induction m with
  | nil => rfl
  | cons c m ih =>
    obtain ⟨k, v⟩ := c
    have ⟨hk, hm⟩ := wf_cons.1 h
    simp only [write]
    split
    · rename_i hak
      refine wf_cons.2 ⟨fun d hd => ?_, h⟩
      rcases List.mem_cons.1 hd with rfl | hd
      · exact hak
      · exact Nat.lt_trans hak (hk d hd)
    · split
      · subst_vars
        exact wf_cons.2 ⟨hk, hm⟩
      · refine wf_cons.2 ⟨fun d hd => ?_, ih hm⟩
        rcases mem_write hd with rfl | hd
        · show k < a
          omega
        · exact hk d hd

/-- Two canonical buffers with the same cells are the same data. -/
theorem ext_of_wf {m n : Memory} (hm : m.wf = true) (hn : n.wf = true) (h : ∀ a, m.cell? a = n.cell? a) : m = n := by
  have below : ∀ {k : Nat} {q : Memory}, (∀ d ∈ q, k < d.1) → ∀ a ≤ k, q.cell? a = none := by
    intro k q hq a ha
    induction q with
    | nil => rfl
    | cons d q ih =>
      have := hq d List.mem_cons_self
      rw [cell?, if_neg (by omega)]
      exact ih fun e he => hq e (List.mem_cons_of_mem _ he)
  induction m generalizing n with
  | nil =>
    cases n with
    | nil => rfl
    | cons d n => exact absurd (h d.1) (by simp [cell?])
  | cons c m ih =>
    cases n with
    | nil => exact absurd (h c.1) (by simp [cell?])
    | cons d n =>
      obtain ⟨k, v⟩ := c
      obtain ⟨l, w⟩ := d
      have ⟨hkm, hm'⟩ := wf_cons.1 hm
      have ⟨hln, hn'⟩ := wf_cons.1 hn
      have hkl : k = l := by
        rcases Nat.lt_trichotomy k l with hlt | heq | hgt
        · have h1 := h k
          rw [cell?, if_pos rfl, cell?, if_neg (by omega), below hln k (Nat.le_of_lt hlt)] at h1
          cases h1
        · exact heq
        · have h1 := h l
          rw [cell?, if_neg (by omega), cell?, if_pos rfl, below hkm l (Nat.le_of_lt hgt)] at h1
          cases h1
      subst hkl
      have hvw : v = w := by simpa [cell?] using h k
      subst hvw
      refine congrArg _ (ih hm' hn' fun a => ?_)
      by_cases hak : a ≤ k
      · rw [below hkm a hak, below hln a hak]
      · simpa [cell?, Nat.ne_of_gt (Nat.lt_of_not_le hak)] using h a

@[simp] theorem length_prefixBytes (m : Memory) (n : Nat) : (m.prefixBytes n).length = n := by
  simp [prefixBytes]

@[simp] theorem prefixBytes_zero (m : Memory) : m.prefixBytes 0 = [] := rfl

theorem prefixBytes_succ (m : Memory) (n : Nat) : m.prefixBytes (n + 1) = m.prefixBytes n ++ [m.byteAt n] := by
  simp [prefixBytes, List.range_succ]

theorem getElem?_prefixBytes (m : Memory) {n k : Nat} (h : k < n) : (m.prefixBytes n)[k]? = some (m.byteAt k) := by
  simp [prefixBytes, h]

/-- A write at or above `n` leaves the bytes below `n` alone. -/
theorem prefixBytes_write_ge (m : Memory) {a n : Nat} (b : Byte) (h : n ≤ a) :
    (m.write a b).prefixBytes n = m.prefixBytes n := by
  refine List.map_congr_left fun k hk => ?_
  have := List.mem_range.1 hk
  exact byteAt_write_other m b (by omega)

/-- A write just above the bytes already there appends to them. -/
theorem prefixBytes_write_succ (m : Memory) (n : Nat) (b : Byte) :
    (m.write n b).prefixBytes (n + 1) = m.prefixBytes n ++ [b] := by
  rw [prefixBytes_succ, prefixBytes_write_ge m b (Nat.le_refl n), byteAt_write_same]

theorem byteAt_of_cell? {m : Memory} {a : Nat} {b : Byte} (h : m.cell? a = some b) : m.byteAt a = b := by
  simp [byteAt, h]

end Memory

end Sys2Proof.Machine
end

