-- ==== Sys2Proof/Laws/Operands.lean ====
section
/-! SUPPORT. Laws of the checksum, the window and the 9-bit values. -/

namespace Sys2Proof.Machine

@[simp] theorem checksum_nil (seed : Sum16) : checksum seed [] = seed := rfl

@[simp] theorem checksum_cons (seed : Sum16) (b : Byte) (bs : List Byte) :
    checksum seed (b :: bs) = checksum (accumulate seed b) bs := rfl

/-- One more byte at the end is one more accumulation (R151). -/
@[simp] theorem checksum_snoc (seed : Sum16) (bs : List Byte) (b : Byte) :
    checksum seed (bs ++ [b]) = accumulate (checksum seed bs) b := by
  simp [checksum]

theorem checksum_append (seed : Sum16) (as bs : List Byte) :
    checksum seed (as ++ bs) = checksum (checksum seed as) bs := by
  simp [checksum]

/-- The seed is added once. -/
theorem checksum_seed_add (seed d : Sum16) (bs : List Byte) : checksum (seed + d) bs = checksum seed bs + d := by
  induction bs generalizing seed with
  | nil => rfl
  | cons b bs ih =>
    have : accumulate (seed + d) b = accumulate seed b + d := by
      simp only [accumulate]; ac_rfl
    rw [checksum_cons, checksum_cons, this, ih]

@[simp] theorem zext9_toNat (b : Byte) : (zext9 b).toNat = b.toNat := by
  have := b.isLt
  simp [zext9, Nat.mod_eq_of_lt (show b.toNat < 512 by omega)]

@[simp] theorem zext16_toNat (b : Byte) : (zext16 b).toNat = b.toNat := by
  have := b.isLt
  simp [zext16, Nat.mod_eq_of_lt (show b.toNat < 65536 by omega)]

@[simp] theorem bodyEnd_toNat (b : Byte) : (bodyEnd b).toNat = 5 + b.toNat := by
  have := b.isLt
  rw [bodyEnd, BitVec.toNat_add, zext9_toNat, show (5 : Count).toNat = 5 from rfl]
  omega

/-- The received checksum as a number (R72). -/
theorem receivedChecksum_toNat (hi lo : Byte) : (receivedChecksum hi lo).toNat = 256 * hi.toNat + lo.toNat := by
  have := lo.isLt
  simp only [receivedChecksum, BitVec.toNat_append]
  rw [← Nat.shiftLeft_add_eq_or_of_lt this, Nat.shiftLeft_eq]
  omega

theorem lengthTooLarge_iff (c : Config) (b : Byte) : lengthTooLarge c b = true ↔ c.maxPayload.toNat < b.toNat := by
  simp [lengthTooLarge, BitVec.lt_def]

theorem nextWinN_toNat (n : BitVec 3) : (nextWinN n).toNat = min (n.toNat + 1) 4 := by
  revert n; decide

theorem nextWinN_le (n : BitVec 3) : nextWinN n ≤ 4 := by
  revert n; decide

@[simp] theorem shiftIn_b0 (w : Window) (b : Byte) : (w.shiftIn b).b0 = w.b1 := rfl
@[simp] theorem shiftIn_b1 (w : Window) (b : Byte) : (w.shiftIn b).b1 = w.b2 := rfl
@[simp] theorem shiftIn_b2 (w : Window) (b : Byte) : (w.shiftIn b).b2 = w.b3 := rfl
@[simp] theorem shiftIn_b3 (w : Window) (b : Byte) : (w.shiftIn b).b3 = b := rfl

/-- A match is a full window that holds the preamble (R100). -/
theorem preambleMatch_iff (w : Window) (n : BitVec 3) :
    preambleMatch w n = true ↔ n = 4 ∧ w = { b0 := 0xFF, b1 := 0x00, b2 := 0xFF, b3 := 0xA5 } := by
  obtain ⟨w0, w1, w2, w3⟩ := w
  simp [preambleMatch, Window.bytes, Config.preamble]

end Sys2Proof.Machine
end

