-- ==== Sys2Proof/Laws/State.lean ====
section
/-! SUPPORT. One lemma for each field of State after each named update of `Machine/Ops.lean` and `Machine/Flags.lean`. -/

namespace Sys2Proof.Machine

variable (s : State)

@[simp] theorem report_phase (o : StepOutcome) : (report o s).phase = s.phase := rfl
@[simp] theorem report_win (o : StepOutcome) : (report o s).win = s.win := rfl
@[simp] theorem report_winN (o : StepOutcome) : (report o s).winN = s.winN := rfl
@[simp] theorem report_idx (o : StepOutcome) : (report o s).idx = s.idx := rfl
@[simp] theorem report_len (o : StepOutcome) : (report o s).len = s.len := rfl
@[simp] theorem report_sum (o : StepOutcome) : (report o s).sum = s.sum := rfl
@[simp] theorem report_ckHi (o : StepOutcome) : (report o s).ckHi = s.ckHi := rfl
@[simp] theorem report_pktValid (o : StepOutcome) : (report o s).pktValid = s.pktValid := rfl
@[simp] theorem report_pktLen (o : StepOutcome) : (report o s).pktLen = s.pktLen := rfl
@[simp] theorem report_buf (o : StepOutcome) : (report o s).buf = s.buf := rfl
@[simp] theorem report_cfg (o : StepOutcome) : (report o s).cfg = s.cfg := rfl
@[simp] theorem report_trace (o : StepOutcome) : (report o s).trace = s.trace := rfl
@[simp] theorem report_out (o : StepOutcome) : (report o s).out = some o := rfl

@[simp] theorem setWindow_phase (w : Window) (n : BitVec 3) : (setWindow w n s).phase = s.phase := rfl
@[simp] theorem setWindow_win (w : Window) (n : BitVec 3) : (setWindow w n s).win = w := rfl
@[simp] theorem setWindow_winN (w : Window) (n : BitVec 3) : (setWindow w n s).winN = n := rfl
@[simp] theorem setWindow_idx (w : Window) (n : BitVec 3) : (setWindow w n s).idx = s.idx := rfl
@[simp] theorem setWindow_len (w : Window) (n : BitVec 3) : (setWindow w n s).len = s.len := rfl
@[simp] theorem setWindow_sum (w : Window) (n : BitVec 3) : (setWindow w n s).sum = s.sum := rfl
@[simp] theorem setWindow_ckHi (w : Window) (n : BitVec 3) : (setWindow w n s).ckHi = s.ckHi := rfl
@[simp] theorem setWindow_pktValid (w : Window) (n : BitVec 3) : (setWindow w n s).pktValid = s.pktValid := rfl
@[simp] theorem setWindow_pktLen (w : Window) (n : BitVec 3) : (setWindow w n s).pktLen = s.pktLen := rfl
@[simp] theorem setWindow_buf (w : Window) (n : BitVec 3) : (setWindow w n s).buf = s.buf := rfl
@[simp] theorem setWindow_cfg (w : Window) (n : BitVec 3) : (setWindow w n s).cfg = s.cfg := rfl
@[simp] theorem setWindow_trace (w : Window) (n : BitVec 3) : (setWindow w n s).trace = s.trace := rfl
@[simp] theorem setWindow_out (w : Window) (n : BitVec 3) : (setWindow w n s).out = s.out := rfl

@[simp] theorem clearWindow_phase : (clearWindow s).phase = s.phase := rfl
@[simp] theorem clearWindow_win : (clearWindow s).win = .clear := rfl
@[simp] theorem clearWindow_winN : (clearWindow s).winN = 0 := rfl
@[simp] theorem clearWindow_idx : (clearWindow s).idx = s.idx := rfl
@[simp] theorem clearWindow_len : (clearWindow s).len = s.len := rfl
@[simp] theorem clearWindow_sum : (clearWindow s).sum = s.sum := rfl
@[simp] theorem clearWindow_ckHi : (clearWindow s).ckHi = s.ckHi := rfl
@[simp] theorem clearWindow_pktValid : (clearWindow s).pktValid = s.pktValid := rfl
@[simp] theorem clearWindow_pktLen : (clearWindow s).pktLen = s.pktLen := rfl
@[simp] theorem clearWindow_buf : (clearWindow s).buf = s.buf := rfl
@[simp] theorem clearWindow_cfg : (clearWindow s).cfg = s.cfg := rfl
@[simp] theorem clearWindow_trace : (clearWindow s).trace = s.trace := rfl
@[simp] theorem clearWindow_out : (clearWindow s).out = s.out := rfl

@[simp] theorem setPhase_phase (p : Phase) : (setPhase p s).phase = p := rfl
@[simp] theorem setPhase_win (p : Phase) : (setPhase p s).win = s.win := rfl
@[simp] theorem setPhase_winN (p : Phase) : (setPhase p s).winN = s.winN := rfl
@[simp] theorem setPhase_idx (p : Phase) : (setPhase p s).idx = s.idx := rfl
@[simp] theorem setPhase_len (p : Phase) : (setPhase p s).len = s.len := rfl
@[simp] theorem setPhase_sum (p : Phase) : (setPhase p s).sum = s.sum := rfl
@[simp] theorem setPhase_ckHi (p : Phase) : (setPhase p s).ckHi = s.ckHi := rfl
@[simp] theorem setPhase_pktValid (p : Phase) : (setPhase p s).pktValid = s.pktValid := rfl
@[simp] theorem setPhase_pktLen (p : Phase) : (setPhase p s).pktLen = s.pktLen := rfl
@[simp] theorem setPhase_buf (p : Phase) : (setPhase p s).buf = s.buf := rfl
@[simp] theorem setPhase_cfg (p : Phase) : (setPhase p s).cfg = s.cfg := rfl
@[simp] theorem setPhase_trace (p : Phase) : (setPhase p s).trace = s.trace := rfl
@[simp] theorem setPhase_out (p : Phase) : (setPhase p s).out = s.out := rfl

@[simp] theorem setLen_phase (b : Byte) : (setLen b s).phase = s.phase := rfl
@[simp] theorem setLen_win (b : Byte) : (setLen b s).win = s.win := rfl
@[simp] theorem setLen_winN (b : Byte) : (setLen b s).winN = s.winN := rfl
@[simp] theorem setLen_idx (b : Byte) : (setLen b s).idx = s.idx := rfl
@[simp] theorem setLen_len (b : Byte) : (setLen b s).len = b := rfl
@[simp] theorem setLen_sum (b : Byte) : (setLen b s).sum = s.sum := rfl
@[simp] theorem setLen_ckHi (b : Byte) : (setLen b s).ckHi = s.ckHi := rfl
@[simp] theorem setLen_pktValid (b : Byte) : (setLen b s).pktValid = s.pktValid := rfl
@[simp] theorem setLen_pktLen (b : Byte) : (setLen b s).pktLen = s.pktLen := rfl
@[simp] theorem setLen_buf (b : Byte) : (setLen b s).buf = s.buf := rfl
@[simp] theorem setLen_cfg (b : Byte) : (setLen b s).cfg = s.cfg := rfl
@[simp] theorem setLen_trace (b : Byte) : (setLen b s).trace = s.trace := rfl
@[simp] theorem setLen_out (b : Byte) : (setLen b s).out = s.out := rfl

@[simp] theorem setCkHi_phase (b : Byte) : (setCkHi b s).phase = s.phase := rfl
@[simp] theorem setCkHi_win (b : Byte) : (setCkHi b s).win = s.win := rfl
@[simp] theorem setCkHi_winN (b : Byte) : (setCkHi b s).winN = s.winN := rfl
@[simp] theorem setCkHi_idx (b : Byte) : (setCkHi b s).idx = s.idx := rfl
@[simp] theorem setCkHi_len (b : Byte) : (setCkHi b s).len = s.len := rfl
@[simp] theorem setCkHi_sum (b : Byte) : (setCkHi b s).sum = s.sum := rfl
@[simp] theorem setCkHi_ckHi (b : Byte) : (setCkHi b s).ckHi = b := rfl
@[simp] theorem setCkHi_pktValid (b : Byte) : (setCkHi b s).pktValid = s.pktValid := rfl
@[simp] theorem setCkHi_pktLen (b : Byte) : (setCkHi b s).pktLen = s.pktLen := rfl
@[simp] theorem setCkHi_buf (b : Byte) : (setCkHi b s).buf = s.buf := rfl
@[simp] theorem setCkHi_cfg (b : Byte) : (setCkHi b s).cfg = s.cfg := rfl
@[simp] theorem setCkHi_trace (b : Byte) : (setCkHi b s).trace = s.trace := rfl
@[simp] theorem setCkHi_out (b : Byte) : (setCkHi b s).out = s.out := rfl

@[simp] theorem startSum_phase : (startSum s).phase = s.phase := rfl
@[simp] theorem startSum_win : (startSum s).win = s.win := rfl
@[simp] theorem startSum_winN : (startSum s).winN = s.winN := rfl
@[simp] theorem startSum_idx : (startSum s).idx = 0 := rfl
@[simp] theorem startSum_len : (startSum s).len = s.len := rfl
@[simp] theorem startSum_sum : (startSum s).sum = s.cfg.cksumSeed := rfl
@[simp] theorem startSum_ckHi : (startSum s).ckHi = s.ckHi := rfl
@[simp] theorem startSum_pktValid : (startSum s).pktValid = s.pktValid := rfl
@[simp] theorem startSum_pktLen : (startSum s).pktLen = s.pktLen := rfl
@[simp] theorem startSum_buf : (startSum s).buf = s.buf := rfl
@[simp] theorem startSum_cfg : (startSum s).cfg = s.cfg := rfl
@[simp] theorem startSum_trace : (startSum s).trace = s.trace := rfl
@[simp] theorem startSum_out : (startSum s).out = s.out := rfl

@[simp] theorem validatePacket_phase (n : Count) : (validatePacket n s).phase = s.phase := rfl
@[simp] theorem validatePacket_win (n : Count) : (validatePacket n s).win = s.win := rfl
@[simp] theorem validatePacket_winN (n : Count) : (validatePacket n s).winN = s.winN := rfl
@[simp] theorem validatePacket_idx (n : Count) : (validatePacket n s).idx = s.idx := rfl
@[simp] theorem validatePacket_len (n : Count) : (validatePacket n s).len = s.len := rfl
@[simp] theorem validatePacket_sum (n : Count) : (validatePacket n s).sum = s.sum := rfl
@[simp] theorem validatePacket_ckHi (n : Count) : (validatePacket n s).ckHi = s.ckHi := rfl
@[simp] theorem validatePacket_pktValid (n : Count) : (validatePacket n s).pktValid = true := rfl
@[simp] theorem validatePacket_pktLen (n : Count) : (validatePacket n s).pktLen = n := rfl
@[simp] theorem validatePacket_buf (n : Count) : (validatePacket n s).buf = s.buf := rfl
@[simp] theorem validatePacket_cfg (n : Count) : (validatePacket n s).cfg = s.cfg := rfl
@[simp] theorem validatePacket_trace (n : Count) : (validatePacket n s).trace = s.trace := rfl
@[simp] theorem validatePacket_out (n : Count) : (validatePacket n s).out = s.out := rfl

@[simp] theorem withdrawPacket_phase : (withdrawPacket s).phase = s.phase := rfl
@[simp] theorem withdrawPacket_win : (withdrawPacket s).win = s.win := rfl
@[simp] theorem withdrawPacket_winN : (withdrawPacket s).winN = s.winN := rfl
@[simp] theorem withdrawPacket_idx : (withdrawPacket s).idx = s.idx := rfl
@[simp] theorem withdrawPacket_len : (withdrawPacket s).len = s.len := rfl
@[simp] theorem withdrawPacket_sum : (withdrawPacket s).sum = s.sum := rfl
@[simp] theorem withdrawPacket_ckHi : (withdrawPacket s).ckHi = s.ckHi := rfl
@[simp] theorem withdrawPacket_pktValid : (withdrawPacket s).pktValid = false := rfl
@[simp] theorem withdrawPacket_pktLen : (withdrawPacket s).pktLen = s.pktLen := rfl
@[simp] theorem withdrawPacket_buf : (withdrawPacket s).buf = s.buf := rfl
@[simp] theorem withdrawPacket_cfg : (withdrawPacket s).cfg = s.cfg := rfl
@[simp] theorem withdrawPacket_trace : (withdrawPacket s).trace = s.trace := rfl
@[simp] theorem withdrawPacket_out : (withdrawPacket s).out = s.out := rfl

@[simp] theorem resetElements_phase : (resetElements s).phase = .hunt := rfl
@[simp] theorem resetElements_win : (resetElements s).win = .clear := rfl
@[simp] theorem resetElements_winN : (resetElements s).winN = 0 := rfl
@[simp] theorem resetElements_idx : (resetElements s).idx = 0 := rfl
@[simp] theorem resetElements_len : (resetElements s).len = 0 := rfl
@[simp] theorem resetElements_sum : (resetElements s).sum = 0 := rfl
@[simp] theorem resetElements_ckHi : (resetElements s).ckHi = 0 := rfl
@[simp] theorem resetElements_pktValid : (resetElements s).pktValid = false := rfl
@[simp] theorem resetElements_pktLen : (resetElements s).pktLen = 0 := rfl
@[simp] theorem resetElements_buf : (resetElements s).buf = [] := rfl
@[simp] theorem resetElements_cfg : (resetElements s).cfg = s.cfg := rfl
@[simp] theorem resetElements_trace : (resetElements s).trace = s.trace := rfl
@[simp] theorem resetElements_out : (resetElements s).out = s.out := rfl

@[simp] theorem abortToHunt_phase : (abortToHunt s).phase = .hunt := rfl
@[simp] theorem abortToHunt_win : (abortToHunt s).win = .clear := rfl
@[simp] theorem abortToHunt_winN : (abortToHunt s).winN = 0 := rfl
@[simp] theorem abortToHunt_idx : (abortToHunt s).idx = s.idx := rfl
@[simp] theorem abortToHunt_len : (abortToHunt s).len = s.len := rfl
@[simp] theorem abortToHunt_sum : (abortToHunt s).sum = s.sum := rfl
@[simp] theorem abortToHunt_ckHi : (abortToHunt s).ckHi = s.ckHi := rfl
@[simp] theorem abortToHunt_pktValid : (abortToHunt s).pktValid = s.pktValid := rfl
@[simp] theorem abortToHunt_pktLen : (abortToHunt s).pktLen = s.pktLen := rfl
@[simp] theorem abortToHunt_buf : (abortToHunt s).buf = s.buf := rfl
@[simp] theorem abortToHunt_cfg : (abortToHunt s).cfg = s.cfg := rfl
@[simp] theorem abortToHunt_trace : (abortToHunt s).trace = s.trace := rfl
@[simp] theorem abortToHunt_out : (abortToHunt s).out = s.out := rfl

@[simp] theorem raiseAndHunt_phase (o : StepOutcome) : (raiseAndHunt o s).phase = .hunt := rfl
@[simp] theorem raiseAndHunt_win (o : StepOutcome) : (raiseAndHunt o s).win = .clear := rfl
@[simp] theorem raiseAndHunt_winN (o : StepOutcome) : (raiseAndHunt o s).winN = 0 := rfl
@[simp] theorem raiseAndHunt_idx (o : StepOutcome) : (raiseAndHunt o s).idx = s.idx := rfl
@[simp] theorem raiseAndHunt_len (o : StepOutcome) : (raiseAndHunt o s).len = s.len := rfl
@[simp] theorem raiseAndHunt_sum (o : StepOutcome) : (raiseAndHunt o s).sum = s.sum := rfl
@[simp] theorem raiseAndHunt_ckHi (o : StepOutcome) : (raiseAndHunt o s).ckHi = s.ckHi := rfl
@[simp] theorem raiseAndHunt_pktValid (o : StepOutcome) : (raiseAndHunt o s).pktValid = s.pktValid := rfl
@[simp] theorem raiseAndHunt_pktLen (o : StepOutcome) : (raiseAndHunt o s).pktLen = s.pktLen := rfl
@[simp] theorem raiseAndHunt_buf (o : StepOutcome) : (raiseAndHunt o s).buf = s.buf := rfl
@[simp] theorem raiseAndHunt_cfg (o : StepOutcome) : (raiseAndHunt o s).cfg = s.cfg := rfl
@[simp] theorem raiseAndHunt_trace (o : StepOutcome) : (raiseAndHunt o s).trace = s.trace := rfl
@[simp] theorem raiseAndHunt_out (o : StepOutcome) : (raiseAndHunt o s).out = some o := rfl

@[simp] theorem startFrame_phase : (startFrame s).phase = .hdr := rfl
@[simp] theorem startFrame_win : (startFrame s).win = .clear := rfl
@[simp] theorem startFrame_winN : (startFrame s).winN = 0 := rfl
@[simp] theorem startFrame_idx : (startFrame s).idx = 0 := rfl
@[simp] theorem startFrame_len : (startFrame s).len = s.len := rfl
@[simp] theorem startFrame_sum : (startFrame s).sum = s.cfg.cksumSeed := rfl
@[simp] theorem startFrame_ckHi : (startFrame s).ckHi = s.ckHi := rfl
@[simp] theorem startFrame_pktValid : (startFrame s).pktValid = false := rfl
@[simp] theorem startFrame_pktLen : (startFrame s).pktLen = s.pktLen := rfl
@[simp] theorem startFrame_buf : (startFrame s).buf = s.buf := rfl
@[simp] theorem startFrame_cfg : (startFrame s).cfg = s.cfg := rfl
@[simp] theorem startFrame_trace : (startFrame s).trace = s.trace := rfl
@[simp] theorem startFrame_out : (startFrame s).out = some .synchronized := rfl

@[simp] theorem storeBodyByte_phase (a : Count) (b : Byte) : (storeBodyByte a b s).phase = s.phase := rfl
@[simp] theorem storeBodyByte_win (a : Count) (b : Byte) : (storeBodyByte a b s).win = s.win := rfl
@[simp] theorem storeBodyByte_winN (a : Count) (b : Byte) : (storeBodyByte a b s).winN = s.winN := rfl
@[simp] theorem storeBodyByte_idx (a : Count) (b : Byte) : (storeBodyByte a b s).idx = a + 1 := rfl
@[simp] theorem storeBodyByte_len (a : Count) (b : Byte) : (storeBodyByte a b s).len = s.len := rfl
@[simp] theorem storeBodyByte_sum (a : Count) (b : Byte) : (storeBodyByte a b s).sum = accumulate s.sum b := rfl
@[simp] theorem storeBodyByte_ckHi (a : Count) (b : Byte) : (storeBodyByte a b s).ckHi = s.ckHi := rfl
@[simp] theorem storeBodyByte_pktValid (a : Count) (b : Byte) : (storeBodyByte a b s).pktValid = s.pktValid := rfl
@[simp] theorem storeBodyByte_pktLen (a : Count) (b : Byte) : (storeBodyByte a b s).pktLen = s.pktLen := rfl
@[simp] theorem storeBodyByte_buf (a : Count) (b : Byte) : (storeBodyByte a b s).buf = s.buf.write a.toNat b := rfl
@[simp] theorem storeBodyByte_cfg (a : Count) (b : Byte) : (storeBodyByte a b s).cfg = s.cfg := rfl
@[simp] theorem storeBodyByte_trace (a : Count) (b : Byte) : (storeBodyByte a b s).trace = s.trace := rfl
@[simp] theorem storeBodyByte_out (a : Count) (b : Byte) : (storeBodyByte a b s).out = s.out := rfl

@[simp] theorem setTrace_phase (ws : List InputWord) : (setTrace ws s).phase = s.phase := rfl
@[simp] theorem setTrace_win (ws : List InputWord) : (setTrace ws s).win = s.win := rfl
@[simp] theorem setTrace_winN (ws : List InputWord) : (setTrace ws s).winN = s.winN := rfl
@[simp] theorem setTrace_idx (ws : List InputWord) : (setTrace ws s).idx = s.idx := rfl
@[simp] theorem setTrace_len (ws : List InputWord) : (setTrace ws s).len = s.len := rfl
@[simp] theorem setTrace_sum (ws : List InputWord) : (setTrace ws s).sum = s.sum := rfl
@[simp] theorem setTrace_ckHi (ws : List InputWord) : (setTrace ws s).ckHi = s.ckHi := rfl
@[simp] theorem setTrace_pktValid (ws : List InputWord) : (setTrace ws s).pktValid = s.pktValid := rfl
@[simp] theorem setTrace_pktLen (ws : List InputWord) : (setTrace ws s).pktLen = s.pktLen := rfl
@[simp] theorem setTrace_buf (ws : List InputWord) : (setTrace ws s).buf = s.buf := rfl
@[simp] theorem setTrace_cfg (ws : List InputWord) : (setTrace ws s).cfg = s.cfg := rfl
@[simp] theorem setTrace_trace (ws : List InputWord) : (setTrace ws s).trace = ws := rfl
@[simp] theorem setTrace_out (ws : List InputWord) : (setTrace ws s).out = s.out := rfl

@[simp] theorem idle_phase : (idle s).phase = s.phase := rfl
@[simp] theorem idle_win : (idle s).win = s.win := rfl
@[simp] theorem idle_winN : (idle s).winN = s.winN := rfl
@[simp] theorem idle_idx : (idle s).idx = s.idx := rfl
@[simp] theorem idle_len : (idle s).len = s.len := rfl
@[simp] theorem idle_sum : (idle s).sum = s.sum := rfl
@[simp] theorem idle_ckHi : (idle s).ckHi = s.ckHi := rfl
@[simp] theorem idle_pktValid : (idle s).pktValid = s.pktValid := rfl
@[simp] theorem idle_pktLen : (idle s).pktLen = s.pktLen := rfl
@[simp] theorem idle_buf : (idle s).buf = s.buf := rfl
@[simp] theorem idle_cfg : (idle s).cfg = s.cfg := rfl
@[simp] theorem idle_trace : (idle s).trace = s.trace := rfl
@[simp] theorem idle_out : (idle s).out = none := rfl

end Sys2Proof.Machine
end

