-- ==== Sys2Proof/Laws/Ops.lean ====
section
/-! SUPPORT. What each shared operation can do, said once. -/

namespace Sys2Proof.Machine

@[simp] theorem mapNext_next (f : State → State) (s : State) : mapNext f (.next s) = .next (f s) := rfl

theorem mapNext_eq_next {f : State → State} {r : Result} {t : State} :
    mapNext f r = .next t ↔ ∃ u, r = .next u ∧ t = f u := by
  cases r <;> simp [mapNext, eq_comm]

/-- `BUF_SIZE` is at least the header region (R9). -/
theorem five_le_bufSize (c : Config) : 5 ≤ c.bufSize := by
  simp [Config.bufSize, Config.hdrLen]

theorem bufSize_eq (c : Config) : c.bufSize = 5 + c.maxPayload.toNat := rfl

/-- A body byte at an address that exists is taken. -/
theorem takeBodyByte_of_lt {a : Count} {s : State} (b : Byte) (h : a.toNat < s.cfg.bufSize) :
    takeBodyByte a b s = .next (storeBodyByte a b s) := if_pos h

/-- A body byte at an address that does not exist stops the machine. -/
theorem takeBodyByte_of_ge {a : Count} {s : State} (b : Byte) (h : s.cfg.bufSize ≤ a.toNat) :
    takeBodyByte a b s = .fault .outsideBuffer := if_neg (Nat.not_lt.2 h)

theorem takeBodyByte_eq_next {a : Count} {b : Byte} {s t : State} :
    takeBodyByte a b s = .next t ↔ a.toNat < s.cfg.bufSize ∧ t = storeBodyByte a b s := by
  unfold takeBodyByte
  split <;> simp [*, eq_comm]

/-- The length byte's address always exists. -/
theorem takeBodyByte_four (b : Byte) (s : State) : takeBodyByte 4#9 b s = .next (storeBodyByte 4#9 b s) :=
  takeBodyByte_of_lt b (Nat.lt_of_lt_of_le (by decide) (five_le_bufSize s.cfg))

theorem withPacket_of_le {n : Count} {s : State} {k : List Byte → Result} (h : n.toNat ≤ s.cfg.bufSize) :
    withPacket n s k = k (s.buf.prefixBytes n.toNat) := if_pos h

theorem withPacket_eq_next {n : Count} {s t : State} {k : List Byte → Result} :
    withPacket n s k = .next t ↔ n.toNat ≤ s.cfg.bufSize ∧ k (s.buf.prefixBytes n.toNat) = .next t := by
  unfold withPacket
  split <;> simp [*]

/-- The read port, inside its gate (R53). -/
theorem readPort_eq_some {s : State} {a : Count} {b : Byte} :
    readPort s a = some b ↔ s.pktValid = true ∧ a < s.pktLen ∧ b = s.buf.byteAt a.toNat := by
  unfold readPort
  cases s.pktValid
  · simp
  · by_cases h : a < s.pktLen
    · simp [h, eq_comm]
    · simp [h]

/-- The read port, outside its gate (R53). -/
theorem readPort_eq_none {s : State} {a : Count} :
    readPort s a = none ↔ s.pktValid = false ∨ s.pktLen ≤ a := by
  unfold readPort
  cases s.pktValid <;> simp

theorem takeWord_nil {s : State} (h : s.trace = []) : takeWord s = none := by
  simp [takeWord, h]

theorem takeWord_cons {s : State} {iw : InputWord} {rest : List InputWord} (h : s.trace = iw :: rest) :
    takeWord s = some (iw, setTrace rest s) := by
  simp [takeWord, h]

end Sys2Proof.Machine
end

