-- ==== Sys2Proof/Laws/Exec.lean ====
section
/-! SUPPORT. What each instruction's meaning answers: one equation or inversion for each, which later proofs cite
instead of unfolding the meaning. -/

namespace Sys2Proof.Machine

/-- A byte while hunting either starts a frame or only moves the window. -/
theorem execSynByte_cases (b : Byte) (s : State) :
    (preambleMatch (s.win.shiftIn b) (nextWinN s.winN) = true ∧ execSynByte b s = .next (startFrame s)) ∨
    (preambleMatch (s.win.shiftIn b) (nextWinN s.winN) = false ∧
      execSynByte b s = .next (report .quiet (setWindow (s.win.shiftIn b) (nextWinN s.winN) s))) := by
  unfold execSynByte
  cases h : preambleMatch (s.win.shiftIn b) (nextWinN s.winN)
  · exact .inr ⟨rfl, by simp [h]⟩
  · exact .inl ⟨rfl, by simp [h]⟩

theorem execAsmHdr_eq_next {b : Byte} {s t : State} :
    execAsmHdr b s = .next t ↔ s.idx.toNat < s.cfg.bufSize ∧ t = report .quiet (storeBodyByte s.idx b s) := by
  simp only [execAsmHdr, mapNext_eq_next, takeBodyByte_eq_next]
  constructor
  · rintro ⟨u, ⟨h, rfl⟩, rfl⟩; exact ⟨h, rfl⟩
  · rintro ⟨h, rfl⟩; exact ⟨_, ⟨h, rfl⟩, rfl⟩

/-- The three verdicts on a length byte (R122). -/
theorem judgeLength_cases (b : Byte) (s : State) :
    (s.cfg.maxPayload.toNat < b.toNat ∧ judgeLength b s = raiseAndHunt (.lengthOutOfRange b) s) ∨
    (b = 0 ∧ judgeLength b s = report .quiet (setPhase .ckHi s)) ∨
    (0 < b.toNat ∧ b.toNat ≤ s.cfg.maxPayload.toNat ∧ judgeLength b s = report .quiet (setPhase .payload s)) := by
  unfold judgeLength
  by_cases h : s.cfg.maxPayload.toNat < b.toNat
  · exact .inl ⟨h, if_pos ((lengthTooLarge_iff _ _).2 h)⟩
  · have hf : ¬lengthTooLarge s.cfg b = true := fun hl => h ((lengthTooLarge_iff _ _).1 hl)
    rw [if_neg hf]
    by_cases hb : b = 0
    · exact .inr (.inl ⟨hb, if_pos hb⟩)
    · refine .inr (.inr ⟨?_, Nat.le_of_not_lt h, if_neg hb⟩)
      rcases Nat.eq_zero_or_pos b.toNat with h0 | h0
      · exact absurd (BitVec.eq_of_toNat_eq h0) hb
      · exact h0

/-- The length byte is always taken; then it is judged. -/
theorem execAsmLen_cases (b : Byte) (s : State) :
    (s.cfg.maxPayload.toNat < b.toNat ∧
      execAsmLen b s = .next (raiseAndHunt (.lengthOutOfRange b) (setLen b (storeBodyByte 4#9 b s)))) ∨
    (b = 0 ∧ execAsmLen b s = .next (report .quiet (setPhase .ckHi (setLen b (storeBodyByte 4#9 b s))))) ∨
    (0 < b.toNat ∧ b.toNat ≤ s.cfg.maxPayload.toNat ∧
      execAsmLen b s = .next (report .quiet (setPhase .payload (setLen b (storeBodyByte 4#9 b s))))) := by
  have e : execAsmLen b s = .next (judgeLength b (setLen b (storeBodyByte 4#9 b s))) := by
    rw [execAsmLen, takeBodyByte_four, mapNext_next]
  rcases judgeLength_cases b (setLen b (storeBodyByte 4#9 b s)) with ⟨h, ej⟩ | ⟨h, ej⟩ | ⟨h, h', ej⟩
  · exact .inl ⟨h, e.trans (congrArg _ ej)⟩
  · exact .inr (.inl ⟨h, e.trans (congrArg _ ej)⟩)
  · exact .inr (.inr ⟨h, h', e.trans (congrArg _ ej)⟩)

/-- A payload byte is the last one exactly when the new count is the end of the body (R124). -/
theorem endOfPayload_cases (s : State) :
    (s.idx.toNat = 5 + s.len.toNat ∧ endOfPayload s = setPhase .ckHi s) ∨
    (s.idx.toNat ≠ 5 + s.len.toNat ∧ endOfPayload s = s) := by
  unfold endOfPayload
  by_cases h : s.idx = bodyEnd s.len
  · refine .inl ⟨?_, if_pos h⟩
    rw [h, bodyEnd_toNat]
  · refine .inr ⟨fun hn => h (BitVec.eq_of_toNat_eq ?_), if_neg h⟩
    rw [hn, bodyEnd_toNat]

/-- A payload byte is taken where its cell exists; the last one leads to the checksum. -/
theorem execAsmPay_eq_next {b : Byte} {s t : State} :
    execAsmPay b s = .next t ↔ s.idx.toNat < s.cfg.bufSize ∧
      (((s.idx + 1).toNat = 5 + s.len.toNat ∧ t = report .quiet (setPhase .ckHi (storeBodyByte s.idx b s))) ∨
       ((s.idx + 1).toNat ≠ 5 + s.len.toNat ∧ t = report .quiet (storeBodyByte s.idx b s))) := by
  have e : execAsmPay b s = .next t ↔
      s.idx.toNat < s.cfg.bufSize ∧ t = report .quiet (endOfPayload (storeBodyByte s.idx b s)) := by
    simp only [execAsmPay, mapNext_eq_next, takeBodyByte_eq_next]
    constructor
    · rintro ⟨u, ⟨h, rfl⟩, rfl⟩; exact ⟨h, rfl⟩
    · rintro ⟨h, rfl⟩; exact ⟨_, ⟨h, rfl⟩, rfl⟩
  rw [e]
  rcases endOfPayload_cases (storeBodyByte s.idx b s) with ⟨h, ej⟩ | ⟨h, ej⟩ <;> rw [ej] <;>
    rw [storeBodyByte_idx, storeBodyByte_len] at h
  · exact ⟨fun ⟨hi, ht⟩ => ⟨hi, .inl ⟨h, ht⟩⟩, fun ⟨hi, ht⟩ => ⟨hi, (ht.resolve_right fun hn => hn.1 h).2⟩⟩
  · exact ⟨fun ⟨hi, ht⟩ => ⟨hi, .inr ⟨h, ht⟩⟩, fun ⟨hi, ht⟩ => ⟨hi, (ht.resolve_left fun hn => h hn.1).2⟩⟩

/-- The judgement of a frame (R158). -/
theorem execCksLo_eq_next {b : Byte} {s t : State} :
    execCksLo b s = .next t ↔
      (receivedChecksum s.ckHi b = s.sum ∧ s.idx.toNat ≤ s.cfg.bufSize ∧
        t = raiseAndHunt (.packetOk (s.buf.prefixBytes s.idx.toNat)) (validatePacket s.idx s)) ∨
      (receivedChecksum s.ckHi b ≠ s.sum ∧ t = raiseAndHunt .checksumMismatch s) := by
  unfold execCksLo
  split
  · rename_i h
    rw [withPacket_eq_next]
    simp [h, eq_comm]
  · rename_i h
    simp [h, eq_comm]

/-- No instruction writes the parameters or the trace, and each that completes reports one outcome (R12, R30). -/
theorem exec_frame {i : Instr} {s t : State} (h : exec i s = .next t) :
    t.cfg = s.cfg ∧ t.trace = s.trace ∧ t.out.isSome = true := by
  cases i with
  | synByte b =>
    rcases execSynByte_cases b s with ⟨-, e⟩ | ⟨-, e⟩ <;> cases e.symm.trans h <;> simp
  | synTmo => cases h; simp
  | synErr => cases h; simp
  | asmHdr b => obtain ⟨-, rfl⟩ := execAsmHdr_eq_next.1 h; simp
  | asmLen b =>
    rcases execAsmLen_cases b s with ⟨-, e⟩ | ⟨-, e⟩ | ⟨-, -, e⟩ <;> cases e.symm.trans h <;> simp
  | asmPay b =>
    obtain ⟨-, ⟨-, rfl⟩ | ⟨-, rfl⟩⟩ := execAsmPay_eq_next.1 h <;> simp
  | asmTmo => cases h; simp
  | asmErr => cases h; simp
  | cksHi b => cases h; simp
  | cksLo b => rcases execCksLo_eq_next.1 h with ⟨-, -, rfl⟩ | ⟨-, rfl⟩ <;> simp
  | reset => cases h; simp
  | evRsvd => cases h

end Sys2Proof.Machine
end

