-- ==== Sys2Proof/Laws/PerInstr.lean ====
section
/-! SUPPORT. The family RoundTrip, one lemma for each constructor: decoding the encoding of an instruction, in a phase
and with an index that select its row, gives the instruction back. -/

namespace Sys2Proof.Laws

/-- Encoding then decoding gives the instruction back wherever its row is selected (R74, R80). -/
def RoundTrip.Statement (i : Instr) : Prop :=
  ∀ (p : Phase) (idx : Count), i.wellFormedAt p idx = true → decode (encode i) p idx = .ok i

theorem RoundTrip.synByte (b : Byte) : RoundTrip.Statement (.synByte b) := by
  intro p idx h
  obtain rfl : p = .hunt := by simpa [Instr.wellFormedAt] using h
  exact decode_byteWord b _ _

theorem RoundTrip.synTmo : RoundTrip.Statement .synTmo := by
  intro p idx h
  obtain rfl : p = .hunt := by simpa [Instr.wellFormedAt] using h
  exact decode_timeoutWord _ _

theorem RoundTrip.synErr : RoundTrip.Statement .synErr := by
  intro p idx h
  obtain rfl : p = .hunt := by simpa [Instr.wellFormedAt] using h
  exact decode_ioerrWord _ _

theorem RoundTrip.asmHdr (b : Byte) : RoundTrip.Statement (.asmHdr b) := by
  intro p idx h
  obtain ⟨rfl, hi⟩ : p = .hdr ∧ idx < 4 := by simpa [Instr.wellFormedAt] using h
  exact (decode_byteWord b _ _).trans (if_pos hi)

theorem RoundTrip.asmLen (b : Byte) : RoundTrip.Statement (.asmLen b) := by
  intro p idx h
  obtain ⟨rfl, rfl⟩ : p = .hdr ∧ idx = 4 := by simpa [Instr.wellFormedAt] using h
  exact (decode_byteWord b _ _).trans (by simp [decodeByte])

theorem RoundTrip.asmPay (b : Byte) : RoundTrip.Statement (.asmPay b) := by
  intro p idx h
  obtain rfl : p = .payload := by simpa [Instr.wellFormedAt] using h
  exact decode_byteWord b _ _

theorem RoundTrip.asmTmo : RoundTrip.Statement .asmTmo := by
  intro p idx h
  have h : p ≠ .hunt := by simpa [Instr.wellFormedAt] using h
  exact (decode_timeoutWord p idx).trans (by simp [h])

theorem RoundTrip.asmErr : RoundTrip.Statement .asmErr := by
  intro p idx h
  have h : p ≠ .hunt := by simpa [Instr.wellFormedAt] using h
  exact (decode_ioerrWord p idx).trans (by simp [h])

theorem RoundTrip.cksHi (b : Byte) : RoundTrip.Statement (.cksHi b) := by
  intro p idx h
  obtain rfl : p = .ckHi := by simpa [Instr.wellFormedAt] using h
  exact decode_byteWord b _ _

theorem RoundTrip.cksLo (b : Byte) : RoundTrip.Statement (.cksLo b) := by
  intro p idx h
  obtain rfl : p = .ckLo := by simpa [Instr.wellFormedAt] using h
  exact decode_byteWord b _ _

theorem RoundTrip.reset : RoundTrip.Statement .reset := fun p idx _ => decode_resetWord p idx

theorem RoundTrip.evRsvd : RoundTrip.Statement .evRsvd := fun p idx _ => decode_reservedWord p idx

end Sys2Proof.Laws
end

