-- ==== Sys2Proof/Laws/Step.lean ====
section
/-! SUPPORT. What one step can do, and runs of steps. -/

namespace Sys2Proof.Machine

theorem react_of_decode {iw : InputWord} {s : State} {i : Instr} (h : decode iw s.phase s.idx = .ok i) :
    react iw s = exec i s := by
  simp [react, h]

/-- A reaction that completes is the execution of the selected instruction. -/
theorem react_eq_next {iw : InputWord} {s t : State} :
    react iw s = .next t ↔ ∃ i, decode iw s.phase s.idx = .ok i ∧ exec i s = .next t := by
  unfold react
  cases h : decode iw s.phase s.idx with
  | ok i => simp
  | error e => cases e; simp

theorem step_idle {s : State} (h : s.trace = []) : step s = .next (idle s) := by
  simp [step, takeWord_nil h]

theorem step_cons {s : State} {iw : InputWord} {rest : List InputWord} (h : s.trace = iw :: rest) :
    step s = react iw (setTrace rest s) := by
  simp [step, takeWord_cons h]

/-- One step that completes: an idle edge, or the reaction to the next word. -/
theorem step_cases {s t : State} (h : step s = .next t) :
    (s.trace = [] ∧ t = idle s) ∨
    (∃ iw rest i, s.trace = iw :: rest ∧ decode iw s.phase s.idx = .ok i ∧ exec i (setTrace rest s) = .next t) := by
  cases ht : s.trace with
  | nil =>
    rw [step_idle ht] at h
    cases h
    exact .inl ⟨rfl, rfl⟩
  | cons iw rest =>
    rw [step_cons ht] at h
    obtain ⟨i, hd, he⟩ := react_eq_next.1 h
    exact .inr ⟨iw, rest, i, rfl, hd, he⟩

@[simp] theorem runsTo_zero {s t : State} : runsTo 0 s t ↔ s = t := by
  constructor
  · intro h; cases h; rfl
  · rintro rfl; rfl

theorem run_of_next (M : Host.Core) {k : Nat} {s u : M.State} (h : M.step s = .next u) :
    M.run (k + 1) s = M.run k u := by
  rw [Host.Core.run, h]

theorem run_of_fault (M : Host.Core) {k : Nat} {s : M.State} {r : M.Fault} (h : M.step s = .fault r) :
    M.run (k + 1) s = .fault r := by
  rw [Host.Core.run, h]

theorem run_of_refused (M : Host.Core) {k : Nat} {s : M.State} {r : M.Refusal} (h : M.step s = .refused r) :
    M.run (k + 1) s = .refused r := by
  rw [Host.Core.run, h]

theorem runsTo_succ {k : Nat} {s t : State} : runsTo (k + 1) s t ↔ ∃ u, step s = .next u ∧ runsTo k u t := by
  unfold runsTo
  cases hs : step s with
  | next u =>
    rw [run_of_next Sys2Proof.core hs]
    exact ⟨fun h => ⟨u, rfl, h⟩, fun ⟨_, h, h'⟩ => by cases h; exact h'⟩
  | fault e =>
    rw [run_of_fault Sys2Proof.core hs]
    exact ⟨nofun, nofun⟩
  | refused e =>
    rw [run_of_refused Sys2Proof.core hs]
    exact ⟨nofun, nofun⟩

/-- Runs compose. -/
theorem runsTo_add {j k : Nat} {s t : State} : runsTo (j + k) s t ↔ ∃ u, runsTo j s u ∧ runsTo k u t := by
  induction j generalizing s with
  | zero => simp
  | succ j ih =>
    rw [Nat.succ_add, runsTo_succ]
    constructor
    · rintro ⟨u, hu, h⟩
      obtain ⟨v, hv, h⟩ := ih.1 h
      exact ⟨v, runsTo_succ.2 ⟨u, hu, hv⟩, h⟩
    · rintro ⟨v, hv, h⟩
      obtain ⟨u, hu, hv⟩ := runsTo_succ.1 hv
      exact ⟨u, hu, ih.2 ⟨v, hv, h⟩⟩

/-- A run leads to one state. -/
theorem runsTo_unique {k : Nat} {s t u : State} (ht : runsTo k s t) (hu : runsTo k s u) : t = u := by
  cases ht.symm.trans hu
  rfl

end Sys2Proof.Machine
end

