-- ==== Sys2Proof/Tests/Slice0.lean ====
section
/-! SUPPORT. Tests of the model's author: well-formedness, words written out from R80, one step of each operation from
the examples of the rules, and for every statement with hypotheses a state and operands that meet them. Expected values
come from the rules named, or are added by hand. -/

namespace Sys2Proof.Tests

open Sys2Proof Sys2Proof.Machine

/-! ### Small states

`MAX_PAYLOAD = 1`, seed `0x00A5`, body `00 0F 10 02 01 3C`. By hand: A5+00+0F+10+02 = C6, +01 = C7, +3C = 103. -/

/-- Parameters small enough that every boundary is near. -/
def tiny : Config := { maxPayload := 1, cksumSeed := 0x00A5 }

/-- A buffer whose cells from 0 on have been written with these bytes. -/
def bufOf (bytes : List Byte) : Memory := bytes.zipIdx.map fun p => (p.2, p.1)

/-- The state that has consumed these body bytes. -/
def consumed (p : Phase) (bytes : List Byte) (sum : Sum16) : State :=
  { State.reset with cfg := tiny, phase := p, idx := BitVec.ofNat 9 bytes.length, sum := sum, buf := bufOf bytes }

def hunting : State := { State.reset with cfg := tiny }
def hdrStart : State := consumed .hdr [] 0x00A5
def hdrLast : State := consumed .hdr [0x00, 0x0F, 0x10, 0x02] 0x00C6
def inPayload : State := { consumed .payload [0x00, 0x0F, 0x10, 0x02, 0x01] 0x00C7 with len := 1 }
def atCkHi : State := { consumed .ckHi [0x00, 0x0F, 0x10, 0x02, 0x01, 0x3C] 0x0103 with len := 1 }
def atCkLo : State := { atCkHi with phase := .ckLo, ckHi := 0x01 }
def delivered : State := { atCkLo with phase := .hunt, pktValid := true, pktLen := 6 }
/-- The delivered packet, and three preamble bytes since. -/
def beforeMatch : State :=
  { delivered with win := { b0 := 0x00, b1 := 0xFF, b2 := 0x00, b3 := 0xFF }, winN := 3 }

/-! ### The invariants of those states -/

theorem none_of_lt {m : Memory} {n : Nat} (h : ∀ c ∈ m, c.1 < n) {a : Nat} (ha : n ≤ a) : m.cell? a = none := by
  induction m with
  | nil => rfl
  | cons c m ih =>
    have hc := h c (List.mem_cons_self ..)
    simp only [Memory.cell?]
    rw [if_neg (by omega)]
    exact ih fun d hd => h d (List.mem_cons_of_mem _ hd)

theorem windowInv_of_clear : WindowInv .clear 0 where
  count := by decide
  unfilled := by decide

theorem windowClear_reset : windowClear State.reset := ⟨rfl, rfl⟩

theorem test_hunting_inv : Inv hunting where
  window := windowInv_of_clear
  hdr := nofun
  payload := nofun
  checksumPhases := by rintro (h | h) <;> cases h
  running := fun h => absurd rfl h
  length := by rintro (h | h | h) <;> cases h
  assembling := fun h => absurd rfl h
  valid := nofun
  counter := by decide
  inside := fun _ _ => rfl
  written := by rintro (h | h) <;> [exact absurd rfl h; cases h]
  canonical := rfl
  packetLength := .inl rfl

theorem test_hdrStart_inv : Inv hdrStart where
  window := windowInv_of_clear
  hdr := fun _ => by decide
  payload := nofun
  checksumPhases := by rintro (h | h) <;> cases h
  running := fun _ => rfl
  length := by rintro (h | h | h) <;> cases h
  assembling := fun _ => ⟨rfl, rfl⟩
  valid := nofun
  counter := by decide
  inside := fun _ _ => rfl
  written := fun _ => nofun
  canonical := rfl
  packetLength := .inl rfl

theorem test_hdrLast_inv : Inv hdrLast where
  window := windowInv_of_clear
  hdr := fun _ => by decide
  payload := nofun
  checksumPhases := by rintro (h | h) <;> cases h
  running := fun _ => rfl
  length := by rintro (h | h | h) <;> cases h
  assembling := fun _ => ⟨rfl, rfl⟩
  valid := nofun
  counter := by decide
  inside := fun _ h => none_of_lt (n := 6) (by decide) h
  written := fun _ => by unfold writtenBelow; decide
  canonical := rfl
  packetLength := .inl rfl

theorem test_inPayload_inv : Inv inPayload where
  window := windowInv_of_clear
  hdr := nofun
  payload := fun _ => by decide
  checksumPhases := by rintro (h | h) <;> cases h
  running := fun _ => rfl
  length := fun _ => rfl
  assembling := fun _ => ⟨rfl, rfl⟩
  valid := nofun
  counter := by decide
  inside := fun _ h => none_of_lt (n := 6) (by decide) h
  written := fun _ => by unfold writtenBelow; decide
  canonical := rfl
  packetLength := .inl rfl

theorem test_atCkHi_inv : Inv atCkHi where
  window := windowInv_of_clear
  hdr := nofun
  payload := nofun
  checksumPhases := fun _ => by decide
  running := fun _ => rfl
  length := fun _ => rfl
  assembling := fun _ => ⟨rfl, rfl⟩
  valid := nofun
  counter := by decide
  inside := fun _ h => none_of_lt (n := 6) (by decide) h
  written := fun _ => by unfold writtenBelow; decide
  canonical := rfl
  packetLength := .inl rfl

theorem test_atCkLo_inv : Inv atCkLo :=
  { test_atCkHi_inv with
    hdr := nofun, payload := nofun, checksumPhases := fun _ => by decide, running := fun _ => rfl
    length := fun _ => rfl, assembling := fun _ => ⟨rfl, rfl⟩, valid := nofun
    written := fun _ => by unfold writtenBelow; decide }

theorem test_delivered_inv : Inv delivered where
  window := windowInv_of_clear
  hdr := nofun
  payload := nofun
  checksumPhases := by rintro (h | h) <;> cases h
  running := fun h => absurd rfl h
  length := by rintro (h | h | h) <;> cases h
  assembling := fun h => absurd rfl h
  valid := fun _ => ⟨rfl, rfl, ⟨0x01, rfl, rfl, by decide⟩, rfl, rfl⟩
  counter := by decide
  inside := fun _ h => none_of_lt (n := 6) (by decide) h
  written := fun _ => by unfold writtenBelow; decide
  canonical := rfl
  packetLength := .inr (by decide)

theorem test_beforeMatch_inv : Inv beforeMatch :=
  { test_delivered_inv with
    window := { count := by decide, unfilled := by decide }, assembling := fun h => absurd rfl h }

/-! ### Well-formedness: for each check an instruction that it refuses -/

theorem test_synchronizer_needs_hunt :
    (Instr.synByte 0xA5).wellFormedAt .hdr 0 = false ∧ Instr.synTmo.wellFormedAt .ckLo 5 = false ∧
    Instr.synErr.wellFormedAt .payload 5 = false := by decide
theorem test_asmHdr_needs_hdr_and_small_idx :
    (Instr.asmHdr 0x0F).wellFormedAt .hunt 0 = false ∧ (Instr.asmHdr 0x0F).wellFormedAt .hdr 4 = false := by decide
theorem test_asmLen_needs_hdr_and_idx_4 :
    (Instr.asmLen 0x08).wellFormedAt .payload 4 = false ∧ (Instr.asmLen 0x08).wellFormedAt .hdr 3 = false := by decide
theorem test_asmPay_and_checksum_need_their_phase :
    (Instr.asmPay 0x3C).wellFormedAt .ckHi 7 = false ∧ (Instr.cksHi 0x01).wellFormedAt .ckLo 13 = false ∧
    (Instr.cksLo 0x0B).wellFormedAt .ckHi 13 = false := by decide
theorem test_aborts_need_a_frame :
    Instr.asmTmo.wellFormedAt .hunt 0 = false ∧ Instr.asmErr.wellFormedAt .hunt 0 = false := by decide

/-! ### Decoding: words written out bit by bit from R80 (`rst kind data`) -/

theorem test_decode_synchronizer :
    decode 0b0_00_10100101#11 .hunt 0 = .ok (.synByte 0xA5) ∧ decode 0b0_01_00000000#11 .hunt 9 = .ok .synTmo ∧
    decode 0b0_10_11111111#11 .hunt 0 = .ok .synErr := by decide
theorem test_decode_assembler :
    decode 0b0_00_00001111#11 .hdr 0 = .ok (.asmHdr 0x0F) ∧ decode 0b0_00_10000001#11 .hdr 3 = .ok (.asmHdr 0x81) ∧
    decode 0b0_00_01010000#11 .hdr 4 = .ok (.asmLen 0x50) ∧ decode 0b0_00_00111100#11 .payload 7 = .ok (.asmPay 0x3C) ∧
    decode 0b0_01_00010000#11 .hdr 0 = .ok .asmTmo ∧ decode 0b0_10_00000000#11 .ckLo 6 = .ok .asmErr := by decide
theorem test_decode_checksum :
    decode 0b0_00_00000001#11 .ckHi 13 = .ok (.cksHi 0x01) ∧
    decode 0b0_00_10000000#11 .ckLo 13 = .ok (.cksLo 0x80) := by decide
theorem test_decode_system :
    decode 0b1_00_00000000#11 .payload 9 = .ok .reset ∧ decode 0b1_11_01010101#11 .hunt 0 = .ok .reset ∧
    decode 0b0_11_00000000#11 .hunt 0 = .ok .evRsvd := by decide
theorem test_decode_refuses_large_header_index :
    decode 0b0_00_00000000#11 .hdr 5 = .error .headerIndexTooLarge := by decide
theorem test_encode :
    encode (.asmPay 0xA5) = 0x0A5 ∧ encode .asmTmo = 0x100 ∧ encode .synErr = 0x200 ∧ encode .reset = 0x400 ∧
    encode .evRsvd = 0x300 := by decide
theorem test_decodeTableWord :
    decodeTableWord 16 0x3C = some (.synByte 0x3C) ∧ decodeTableWord 16 0x100 = some .synTmo ∧
    decodeTableWord 16 0x200 = some .synErr ∧ decodeTableWord 16 0x400 = some .reset ∧
    decodeTableWord 16 0x300 = some .evRsvd ∧ decodeTableWord 16 0x800 = none ∧ decodeTableWord 8 0x100 = none := by
  decide
theorem test_withFetchWord :
    step (State.reset.withFetchWord 16 0x100) = exec .synTmo State.reset := rfl

/-! ### One step of each operation: the examples of the rules -/

/-- R100's example. -/
theorem test_synByte_match :
    exec (.synByte 0xA5) { State.reset with win := { b0 := 0x12, b1 := 0xFF, b2 := 0x00, b3 := 0xFF }, winN := 4 } =
      .next { State.reset with phase := .hdr, sum := 0x00A5, out := some .synchronized } := by rfl
/-- R100 corner case (a): the same bytes with only two counted before. -/
theorem test_synByte_no_match_before_four :
    exec (.synByte 0xA5) { State.reset with win := { b0 := 0x00, b1 := 0xFF, b2 := 0x00, b3 := 0xFF }, winN := 2 } =
      .next { State.reset with
        win := { b0 := 0xFF, b1 := 0x00, b2 := 0xFF, b3 := 0xA5 }, winN := 3, out := some .quiet } := by rfl
/-- R102's example. -/
theorem test_synTmo :
    exec .synTmo { State.reset with win := { b0 := 0, b1 := 0xFF, b2 := 0x00, b3 := 0xFF }, winN := 3 } =
      .next { State.reset with out := some .busIdle } := by rfl
/-- R104's example. -/
theorem test_synErr :
    exec .synErr { State.reset with winN := 2 } = .next { State.reset with out := some .ioFailure } := by rfl
/-- R120's example. -/
theorem test_asmHdr :
    exec (.asmHdr 0x0F) { State.reset with phase := .hdr, idx := 1, sum := 0x00A6, buf := bufOf [0x01] } =
      .next { State.reset with
        phase := .hdr, idx := 2, sum := 0x00B5, buf := bufOf [0x01, 0x0F], out := some .quiet } := by rfl
/-- R122's example, accepted. -/
theorem test_asmLen_accepts :
    exec (.asmLen 0x08) { State.reset with phase := .hdr, idx := 4, sum := 0x00C7 } =
      .next { State.reset with
        phase := .payload, idx := 5, sum := 0x00CF, len := 8, buf := [(4, 0x08)], out := some .quiet } := by rfl
/-- R122's example, rejected: `0xC7 + 0x50 = 0x117`. -/
theorem test_asmLen_rejects :
    exec (.asmLen 0x50) { State.reset with phase := .hdr, idx := 4, sum := 0x00C7 } =
      .next { State.reset with
        phase := .hunt, idx := 5, sum := 0x0117, len := 0x50, buf := [(4, 0x50)],
        out := some (.lengthOutOfRange 0x50) } := by rfl
/-- R124's example. -/
theorem test_asmPay :
    exec (.asmPay 0x3C) { State.reset with phase := .payload, idx := 7, len := 8, sum := 0x00CF } =
      .next { State.reset with
        phase := .payload, idx := 8, len := 8, sum := 0x010B, buf := [(7, 0x3C)], out := some .quiet } := by rfl
/-- R124 corner case (a). -/
theorem test_asmPay_last : exec (.asmPay 0x3C) inPayload = .next { atCkHi with out := some .quiet } := by rfl
/-- R126's example. -/
theorem test_asmTmo :
    exec .asmTmo { State.reset with phase := .hdr, idx := 3 } =
      .next { State.reset with idx := 3, out := some (.shortRead 3) } := by rfl
/-- R126 corner case (c): `6 + len` with `len = 1`. -/
theorem test_asmTmo_between_checksum_bytes :
    exec .asmTmo atCkLo = .next { atCkLo with phase := .hunt, out := some (.shortRead 7) } := by rfl
/-- R128's example. -/
theorem test_asmErr :
    exec .asmErr { State.reset with phase := .payload, idx := 6 } =
      .next { State.reset with idx := 6, out := some .ioFailure } := by rfl
/-- R156's example. -/
theorem test_cksHi :
    exec (.cksHi 0x01) { State.reset with phase := .ckHi, sum := 0x010B } =
      .next { State.reset with phase := .ckLo, ckHi := 0x01, sum := 0x010B, out := some .quiet } := by rfl
/-- R158: the checksum `0x0103` of the small frame. -/
theorem test_cksLo_match :
    exec (.cksLo 0x03) atCkLo =
      .next { delivered with out := some (.packetOk [0x00, 0x0F, 0x10, 0x02, 0x01, 0x3C]) } := by rfl
/-- R158's example, mismatch. -/
theorem test_cksLo_mismatch :
    exec (.cksLo 0x0A) { State.reset with phase := .ckLo, ckHi := 0x01, sum := 0x010B, idx := 13 } =
      .next { State.reset with ckHi := 0x01, sum := 0x010B, idx := 13, out := some .checksumMismatch } := by rfl
/-- R170's example: a reset in mid-frame leads to the reset state; of the buffer nothing counts as written (R34). -/
theorem test_reset :
    exec .reset inPayload = .next { hunting with out := some .quiet } := by rfl
/-- R172's example. -/
theorem test_evRsvd : exec .evRsvd atCkLo = .refused .reservedEvent := rfl

/-! ### The trace notation and the checksum -/

/-- R85, R86: the frame of R158 corner case (d). -/
theorem test_assemble :
    assemble 0x00A5 [.pre, .frame 0 0 0 0 [], .t, .e, .r, .x, .idle 2, .hh 0x3C] =
      [0x0FF, 0x000, 0x0FF, 0x0A5, 0, 0, 0, 0, 0, 0x000, 0x0A5, 0x100, 0x200, 0x400, 0x300, 0x100, 0x100, 0x03C] := by
  decide
/-- R153 (c): 260 bytes `0xFF` wrap to `0x03A1`. -/
theorem test_checksum_wraps : checksum 0x00A5 (List.replicate 260 0xFF) = 0x03A1 := by decide +kernel

/-! ### The ports -/

/-- R53, R56: inside and outside the gate, at its edge. -/
theorem test_ports :
    readPort delivered 5 = some 0x3C ∧ readPort delivered 6 = none ∧ readPort atCkLo 0 = none ∧
    headerTap delivered 2 = some 0x10 ∧ verValid delivered = some true := by decide

/-! ### For every statement with hypotheses, states and operands that meet them

The states above meet `Inv` by the theorems above. -/

theorem test_witness_DecodeAndEncodeAgree :
    (Instr.asmHdr 0xFF).wellFormedAt .hdr 3 = true ∧ (Instr.asmLen 0xFF).wellFormedAt .hdr 4 = true ∧
    Instr.asmTmo.wellFormedAt .ckLo 260 = true ∧ decode 0x7FF .ckHi 0 = .ok .reset := by decide

theorem test_witness_InputWordLayoutAndIgnoredBits :
    (iwRst 0x400 = true ∧ iwRst 0x7FF = true) ∧
    (iwRst 0x100 = false ∧ iwRst 0x1FF = false ∧ iwKind 0x100 = iwKind 0x1FF ∧ iwKind 0x100 ≠ kindByte) := by decide

theorem test_witness_DispatchSelectsByWordPhaseAndIndex :
    (0 : Count) < 4 ∧ (3 : Count) < 4 ∧ ¬(4 : Count) < 4 ∧ Phase.hdr ≠ .hunt ∧ Phase.ckLo ≠ .hunt := by decide

theorem test_witness_AdmittedWordsAlwaysComplete :
    Inv hdrLast ∧ hdrLast.phase = .hdr ∧ iwKind 0x2FF ≠ 0b11 ∧ iwRst 0x700 = true :=
  ⟨test_hdrLast_inv, rfl, by decide, by decide⟩

theorem test_witness_StepRunsTheDecodedInstruction :
    decode 0x0A5 State.reset.phase State.reset.idx = .ok (.synByte 0xA5) ∧
    Instr.synTmo.wellFormedAt State.reset.phase State.reset.idx = true ∧
    ({ State.reset with trace := [0x0A5] } : State).trace = 0x0A5 :: [] ∧
    ({ State.reset with trace := [encode .synTmo] } : State).trace = encode .synTmo :: [] ∧
    State.reset.trace = [] := by decide

/-- The match clause at its smallest count, and the other clause one below it. -/
theorem test_witness_SynByteSlidesTheWindowOrStartsAFrame :
    beforeMatch.phase = .hunt ∧
    (min (beforeMatch.winN.toNat + 1) 4 = 4 ∧ beforeMatch.win.b1 = 0xFF ∧ beforeMatch.win.b2 = 0x00 ∧
      beforeMatch.win.b3 = 0xFF ∧ (0xA5 : Byte) = 0xA5) ∧
    ¬min (({ beforeMatch with winN := 2 } : State).winN.toNat + 1) 4 = 4 := by decide

theorem test_witness_SynTmo_SynErr : State.reset.phase = .hunt := rfl

theorem test_witness_AsmHdrStoresSumsAndCounts :
    hdrStart.idx < 4 ∧ hdrStart.phase = .hdr ∧ ({ hdrLast with idx := 3 } : State).idx < 4 := by decide

/-- `MAX_PAYLOAD = 1`: the lengths 2, 0 and 1 fall under the three clauses. -/
theorem test_witness_AsmLenStoresAndJudgesTheLength :
    hdrLast.phase = .hdr ∧ hdrLast.idx = 4 ∧ hdrLast.cfg.maxPayload.toNat < (2 : Byte).toNat ∧
    (0 : Byte).toNat ≤ hdrLast.cfg.maxPayload.toNat ∧
    (1 : Byte).toNat ≤ hdrLast.cfg.maxPayload.toNat ∧ (1 : Byte) ≠ 0 := by decide

theorem test_witness_AsmPayStoresAndEndsThePayload :
    inPayload.idx.toNat < inPayload.cfg.bufSize ∧ inPayload.phase = .payload ∧
    ¬(inPayload.idx + 1).toNat < inPayload.cfg.bufSize := by decide

theorem test_witness_AsmTmo_AsmErr :
    (Inv hdrStart ∧ hdrStart.phase ≠ .hunt) ∧ (Inv atCkLo ∧ atCkLo.phase ≠ .hunt) :=
  ⟨⟨test_hdrStart_inv, nofun⟩, ⟨test_atCkLo_inv, nofun⟩⟩

theorem test_witness_CksHiHoldsTheHighByte : atCkHi.phase = .ckHi := rfl

theorem test_witness_CksLoDeliversOrDiscards :
    (256 * atCkLo.ckHi.toNat + (0x03 : Byte).toNat = atCkLo.sum.toNat ∧ atCkLo.idx.toNat = atCkLo.cfg.bufSize) ∧
    256 * atCkLo.ckHi.toNat + (0x04 : Byte).toNat ≠ atCkLo.sum.toNat ∧ Inv atCkLo ∧ atCkLo.phase = .ckLo :=
  ⟨⟨rfl, rfl⟩, by decide, test_atCkLo_inv, rfl⟩

theorem test_witness_Reset_EvRsvd :
    iwRst 0x400 = true ∧ iwRst 0x7FF = true ∧ (iwRst 0x300 = false ∧ iwKind 0x300 = 0b11) ∧
    (iwRst 0x3FF = false ∧ iwKind 0x3FF = 0b11) := by decide

/-- `BUF_SIZE = 6`: the store at 6, the packet of 7 bytes, the header index 5. -/
theorem test_witness_StopsOutsideTheInvariants :
    atCkHi.cfg.bufSize ≤ atCkHi.idx.toNat ∧
    (atCkLo.cfg.bufSize < ({ atCkLo with idx := 7 } : State).idx.toNat ∧
      256 * atCkLo.ckHi.toNat + (0x03 : Byte).toNat = atCkLo.sum.toNat) ∧
    (4 : Count) < ({ hdrLast with idx := 5 } : State).idx ∧ Inv hdrLast :=
  ⟨by decide, by decide, by decide, test_hdrLast_inv⟩

theorem test_witness_FrameOfTheOperationsThatStoreNothing :
    (∃ t, exec (.synByte 0x12) beforeMatch = .next t ∧ t.out ≠ some .synchronized) ∧
    (∃ t, exec .asmTmo atCkLo = .next t) ∧ (∃ t, exec (.cksHi 0x01) atCkHi = .next t) ∧
    (∃ t, exec (.cksLo 0x04) atCkLo = .next t ∧ t.out = some .checksumMismatch) ∧
    ∃ t, exec .reset atCkLo = .next t :=
  ⟨⟨_, rfl, by decide⟩, ⟨_, rfl⟩, ⟨_, rfl⟩, ⟨_, rfl, rfl⟩, ⟨_, rfl⟩⟩

theorem test_witness_FrameOfTheOperationsThatStore :
    (∃ t, exec (.asmHdr 0x0F) hdrStart = .next t ∧ 0 = hdrStart.idx.toNat) ∧
    (∃ t, exec (.asmLen 0x01) hdrLast = .next t ∧ (0x01 : Byte).toNat ≤ hdrLast.cfg.maxPayload.toNat) ∧
    ∃ t, exec (.asmPay 0x3C) inPayload = .next t ∧ 5 = inPayload.idx.toNat :=
  ⟨⟨_, rfl, rfl⟩, ⟨_, rfl, by decide⟩, ⟨_, rfl, rfl⟩⟩

/-- A state with words still to come meets the same invariants. -/
theorem inv_trace {s : State} (h : Inv s) (ws : List InputWord) : Inv (setTrace ws s) :=
  ⟨h.window, h.hdr, h.payload, h.checksumPhases, h.running, h.length, h.assembling, h.valid, h.counter, h.inside,
    h.written, h.canonical, h.packetLength⟩

theorem test_witness_EveryStepKeepsTheInvariants :
    Inv (setTrace [0x003] atCkLo) ∧ ∃ t, step (setTrace [0x003] atCkLo) = .next t ∧ t.pktValid = true :=
  ⟨inv_trace test_atCkLo_inv _, _, rfl, rfl⟩

theorem test_witness_TheBlockNeverStops :
    Inv (setTrace [0x001, 0x03C, 0x400] hdrLast) ∧ traceAdmitted (setTrace [0x001, 0x03C, 0x400] hdrLast) :=
  ⟨inv_trace test_hdrLast_inv _, by unfold traceAdmitted; decide⟩

theorem test_witness_EveryStepFollowsTheTransitionTable : Inv inPayload ∧ admitted 0x03C = true :=
  ⟨test_inPayload_inv, by decide⟩

/-- One step for each outcome but `None`, from states that meet the invariants. -/
theorem test_witness_outcomes :
    (∃ t, react 0x0A5 beforeMatch = .next t ∧ t.out = some .synchronized) ∧
    (∃ t, react 0x100 delivered = .next t ∧ t.out = some .busIdle) ∧
    (∃ t, react 0x200 delivered = .next t ∧ t.out = some .ioFailure) ∧
    (∃ t, react 0x200 inPayload = .next t ∧ t.out = some .ioFailure) ∧
    (∃ t, react 0x003 atCkLo = .next t ∧ t.out = some (.packetOk [0x00, 0x0F, 0x10, 0x02, 0x01, 0x3C])) ∧
    (∃ t, react 0x004 atCkLo = .next t ∧ t.out = some .checksumMismatch) ∧
    (∃ t, react 0x002 hdrLast = .next t ∧ t.out = some (.lengthOutOfRange 2)) ∧
    (∃ t, react 0x100 atCkLo = .next t ∧ t.out = some (.shortRead 7)) :=
  ⟨⟨_, rfl, rfl⟩, ⟨_, rfl, rfl⟩, ⟨_, rfl, rfl⟩, ⟨_, rfl, rfl⟩, ⟨_, rfl, rfl⟩, ⟨_, rfl, rfl⟩, ⟨_, rfl, rfl⟩, ⟨_, rfl, rfl⟩⟩

/-- `OutcomeWordCodes`, `StateAfterEachOutcome` and `DeliveredPacketIsTheCheckedBuffer`: those steps start in states that
meet the invariants. -/
theorem test_witness_outcome_states :
    Inv beforeMatch ∧ Inv delivered ∧ Inv inPayload ∧ Inv atCkLo ∧ Inv hdrLast :=
  ⟨test_beforeMatch_inv, test_delivered_inv, test_inPayload_inv, test_atCkLo_inv, test_hdrLast_inv⟩

theorem test_witness_WindowIsClearWheneverHuntingStarts :
    iwRst 0x4FF = true ∧ (∃ t, react 0x4FF delivered = .next t) ∧ (∃ t, react 0x001 atCkHi = .next t) ∧
    atCkHi.phase ≠ .hunt ∧ Inv atCkHi :=
  ⟨by decide, ⟨_, rfl⟩, ⟨_, rfl⟩, nofun, test_atCkHi_inv⟩

theorem test_witness_WhoWritesPacketValid :
    (∃ t, exec (.cksLo 0x03) atCkLo = .next t) ∧ atCkLo.pktValid = false ∧
    (∃ t, exec (.synByte 0x12) delivered = .next t ∧ t.out ≠ some .synchronized) ∧
    (∃ t, exec .synTmo delivered = .next t) ∧ ∃ t, exec .synErr delivered = .next t :=
  ⟨⟨_, rfl⟩, rfl, ⟨_, rfl, by decide⟩, ⟨_, rfl⟩, ⟨_, rfl⟩⟩

theorem test_witness_WhoWritesPacketLength :
    Inv delivered ∧ delivered.pktValid = true ∧ Inv atCkLo ∧ atCkLo.phase = .ckLo ∧
    ∃ t, exec (.cksLo 0x03) atCkLo = .next t ∧ t.pktValid = true :=
  ⟨test_delivered_inv, rfl, test_atCkLo_inv, rfl, _, rfl, rfl⟩

theorem test_witness_WhoWritesTheBuffer :
    (∃ t, decode 0x00F hdrStart.phase hdrStart.idx = .ok (.asmHdr 0x0F) ∧ exec (.asmHdr 0x0F) hdrStart = .next t) ∧
    (∃ t, decode 0x002 hdrLast.phase hdrLast.idx = .ok (.asmLen 2) ∧ exec (.asmLen 2) hdrLast = .next t ∧
      hdrLast.cfg.maxPayload.toNat < (2 : Byte).toNat) ∧
    (∃ t, decode 0x03C inPayload.phase inPayload.idx = .ok (.asmPay 0x3C) ∧ exec (.asmPay 0x3C) inPayload = .next t) ∧
    (∃ t, decode 0x400 inPayload.phase inPayload.idx = .ok .reset ∧ exec .reset inPayload = .next t) ∧
    Inv hdrStart ∧ Inv hdrLast ∧ Inv inPayload :=
  ⟨⟨_, by decide, rfl⟩, ⟨_, by decide, rfl, by decide⟩, ⟨_, by decide, rfl⟩, ⟨_, by decide, rfl⟩, test_hdrStart_inv, test_hdrLast_inv,
    test_inPayload_inv⟩

/-- `WhoWritesTheSum` and `WhoWritesTheCounterTheLengthAndTheHighByte`. -/
theorem test_witness_WhoWritesTheRegisters :
    (∃ t, exec (.synByte 0xA5) beforeMatch = .next t ∧ t.out = some .synchronized) ∧
    (∃ t, exec (.asmHdr 0x0F) hdrStart = .next t) ∧ (∃ t, exec (.asmLen 0x01) hdrLast = .next t) ∧
    (∃ t, exec (.asmPay 0x3C) inPayload = .next t) ∧ ∃ t, exec (.cksHi 0x01) atCkHi = .next t :=
  ⟨⟨_, rfl, rfl⟩, ⟨_, rfl⟩, ⟨_, rfl⟩, ⟨_, rfl⟩, ⟨_, rfl⟩⟩

/-- `ReadPortIsGated` and `HeaderTapsAreTheFirstFiveBytes`: the last address inside the gate, the first outside. -/
theorem test_witness_reads :
    (delivered.pktValid = true ∧ (5 : Count).toNat < delivered.pktLen.toNat) ∧
    ¬(delivered.pktValid = true ∧ (6 : Count).toNat < delivered.pktLen.toNat) ∧ atCkLo.pktValid = false ∧
    (Inv delivered ∧ (4 : Count) < 5) :=
  ⟨by decide, by decide, rfl, test_delivered_inv, by decide⟩

theorem test_witness_PacketStaysReadableUntilTheNextMatch :
    (Inv delivered ∧ delivered.pktValid = true ∧ iwRst 0x100 = false ∧
      ∃ t, react 0x100 delivered = .next t ∧ t.out ≠ some .synchronized) ∧
    (Inv beforeMatch ∧ beforeMatch.pktValid = true ∧ iwRst 0x0A5 = false ∧
      ∃ t, react 0x0A5 beforeMatch = .next t ∧ t.out = some .synchronized) :=
  ⟨⟨test_delivered_inv, rfl, by decide, _, rfl, by decide⟩, ⟨test_beforeMatch_inv, rfl, by decide, _, rfl, rfl⟩⟩

theorem test_witness_NoMatchWithinThreeStepsOfAClearWindow :
    huntsAfresh (setTrace [0x0FF, 0x000, 0x0FF] delivered) ∧
    ∃ t, runsTo 3 (setTrace [0x0FF, 0x000, 0x0FF] delivered) t ∧ t.winN = 3 :=
  ⟨⟨rfl, rfl, rfl⟩, _, rfl, rfl⟩

theorem test_witness_NoMatchInsideAFrame :
    hdrStart.phase ≠ .hunt ∧ ∃ t, react 0x0A5 hdrStart = .next t ∧ t.phase = .hdr :=
  ⟨nofun, _, rfl, rfl⟩

/-- R100 corner case (b): `FF 00 FF 00 FF A5` matches at its sixth byte. -/
theorem test_witness_SynchronizesAtTheFirstPreamble :
    huntsAfresh (setTrace (byteWords [0xFF, 0x00, 0xFF, 0x00, 0xFF, 0xA5]) hunting) ∧
    (setTrace (byteWords [0xFF, 0x00, 0xFF, 0x00, 0xFF, 0xA5]) hunting).trace =
      byteWords [0xFF, 0x00, 0xFF, 0x00, 0xFF, 0xA5] ++ [] ∧
    preambleEndsAt [0xFF, 0x00, 0xFF, 0x00, 0xFF, 0xA5] 5 ∧
    ∀ j, j < 5 → ¬preambleEndsAt [0xFF, 0x00, 0xFF, 0x00, 0xFF, 0xA5] j :=
  ⟨⟨rfl, rfl, rfl⟩, rfl, by unfold preambleEndsAt; decide, by unfold preambleEndsAt; decide⟩

theorem test_witness_WindowHoldsTheLatestBytes :
    huntsAfresh (setTrace (byteWords [0x12, 0xFF, 0x00, 0xFF, 0x00]) hunting) ∧
    (setTrace (byteWords [0x12, 0xFF, 0x00, 0xFF, 0x00]) hunting).trace = byteWords [0x12, 0xFF, 0x00, 0xFF, 0x00] ++ [] ∧
    ∀ j, j < 5 → ¬preambleEndsAt [0x12, 0xFF, 0x00, 0xFF, 0x00] j :=
  ⟨⟨rfl, rfl, rfl⟩, rfl, by unfold preambleEndsAt; decide⟩

/-- `GoodFrameIsDeliveredExactly`, with as many payload bytes as `MAX_PAYLOAD` admits; and `SingleByteErrorsAreDetected`
at the first offset, at offset 5 beside the length byte, and at the last. -/
theorem test_witness_frames :
    FrameStart (setTrace (byteWords (goodFrame 0x00A5 0x00 0x0F 0x10 0x02 [0x3C])) hdrStart) ∧
    [(0x3C : Byte)].length = hdrStart.cfg.maxPayload.toNat ∧
    (setTrace (byteWords (goodFrame 0x00A5 0x00 0x0F 0x10 0x02 [0x3C])) hdrStart).trace =
      byteWords (goodFrame hdrStart.cfg.cksumSeed 0x00 0x0F 0x10 0x02 [0x3C]) ++ [] ∧
    (goodFrame hdrStart.cfg.cksumSeed 0x00 0x0F 0x10 0x02 [0x3C])[0]? ≠ some 0x01 ∧
    (goodFrame hdrStart.cfg.cksumSeed 0x00 0x0F 0x10 0x02 [0x3C])[5]? ≠ some 0x3D ∧
    (goodFrame hdrStart.cfg.cksumSeed 0x00 0x0F 0x10 0x02 [0x3C])[7]? ≠ some 0x04 ∧ 7 < 7 + [(0x3C : Byte)].length :=
  ⟨⟨rfl, rfl, rfl, rfl, rfl, rfl⟩, rfl, rfl, by decide, by decide, by decide, by decide⟩

/-- `PreambleAndFrameAreDelivered` and `ResynchronizesAfterATimeoutInAnyState`. -/
theorem test_witness_preamble_and_frame :
    huntsAfresh (setTrace (assemble 0x00A5 [.pre, .frame 0x00 0x0F 0x10 0x02 [0x3C]]) delivered) ∧
    [(0x3C : Byte)].length ≤ delivered.cfg.maxPayload.toNat ∧
    (setTrace (assemble 0x00A5 [.pre, .frame 0x00 0x0F 0x10 0x02 [0x3C]]) delivered).trace =
      assemble delivered.cfg.cksumSeed [.pre, .frame 0x00 0x0F 0x10 0x02 [0x3C]] ++ [] ∧
    (setTrace (assemble 0x00A5 [.t, .pre, .frame 0x00 0x0F 0x10 0x02 [0x3C]]) inPayload).trace =
      assemble inPayload.cfg.cksumSeed [.t, .pre, .frame 0x00 0x0F 0x10 0x02 [0x3C]] ++ [] :=
  ⟨⟨rfl, rfl, rfl⟩, by decide, rfl, rfl⟩

theorem test_witness_ChecksumIsTheModularSum : Inv atCkHi ∧ atCkHi.phase = .ckHi := ⟨test_atCkHi_inv, rfl⟩

/-- Version and payload byte exchanged. -/
theorem test_witness_ReorderedFrameIsAccepted :
    ([0x00, 0x0F, 0x10, 0x02, 0x3C] : List Byte).Perm [0x3C, 0x0F, 0x10, 0x02, 0x00] ∧
    FrameStart (setTrace (byteWords (frameBody 0x3C 0x0F 0x10 0x02 [0x00] ++
      checksumBytes 0x00A5 (frameBody 0x00 0x0F 0x10 0x02 [0x3C])) ++ []) hdrStart) ∧
    [(0x3C : Byte)].length ≤ hdrStart.cfg.maxPayload.toNat :=
  ⟨by decide, ⟨rfl, rfl, rfl, rfl, rfl, rfl⟩, by decide⟩

theorem test_witness_ReactionDependsOnNothingElse :
    (∃ t, react 0x003 atCkLo = .next t) ∧ react 0x000 atCkLo ≠ .refused .noOperation ∧
    (∃ e, react 0x300 atCkLo = .refused e) ∧
    ∃ e, react 0x03C { inPayload with idx := 6 } = .fault e :=
  ⟨⟨_, rfl⟩, nofun, ⟨_, rfl⟩, ⟨_, rfl⟩⟩

/-- `StaleRegistersAreUnobservable` and `OldBufferContentsAreUnobservable`. -/
theorem test_witness_unobservable :
    (delivered.phase = .hunt ∧ ∃ t, runsTo 1 (setTrace [0x0FF] delivered) t) ∧
    (hunting.phase = .hunt ∧ hunting.pktValid = false ∧ ∃ t, runsTo 1 (setTrace [0x0FF] hunting) t) :=
  ⟨⟨rfl, _, rfl⟩, rfl, rfl, _, rfl⟩

theorem test_witness_PortsDriveAndShowTheStep :
    (∃ p : InPins, p.rst = false ∧ p.evValid = false) ∧
    (∃ t, clockEdge { rst := true, evValid := false, evKind := 0, evData := 0 } atCkLo = .next t) ∧
    ∃ t, clockEdge { rst := false, evValid := true, evKind := 0b01, evData := 0 } atCkLo = .next t :=
  ⟨⟨{ rst := false, evValid := false, evKind := 0, evData := 0 }, rfl, rfl⟩, ⟨_, rfl⟩, ⟨_, rfl⟩⟩

end Sys2Proof.Tests
end

/-! ### The dispatch of admitted words (R81) -/

namespace Sys2Proof

/-- A `BYTE` event selects the row whose condition holds, but for a header index above 4. -/
theorem decodeByte_selects (b : Byte) {p : Phase} {idx : Count} (h : p = .hdr → idx ≤ 4) :
    ∃ i, decodeByte b p idx = .ok i ∧ i.wellFormedAt p idx = true ∧ i ≠ .evRsvd := by
  cases p with
  | hunt => exact ⟨.synByte b, rfl, rfl, nofun⟩
  | hdr =>
    by_cases hlt : idx < 4
    · exact ⟨.asmHdr b, if_pos hlt, by simpa [Instr.wellFormedAt] using hlt, nofun⟩
    · obtain rfl : idx = 4 := BitVec.le_antisymm (h rfl) (BitVec.not_lt.1 hlt)
      exact ⟨.asmLen b, rfl, rfl, nofun⟩
  | payload => exact ⟨.asmPay b, rfl, rfl, nofun⟩
  | ckHi => exact ⟨.cksHi b, rfl, rfl, nofun⟩
  | ckLo => exact ⟨.cksLo b, rfl, rfl, nofun⟩

/-- An admitted word selects an instruction whose row's condition holds, and it is not the reserved one. -/
theorem decode_of_admitted {iw : InputWord} {p : Phase} {idx : Count} (hw : admitted iw = true)
    (h : p = .hdr → idx ≤ 4) :
    ∃ i, decode iw p idx = .ok i ∧ i.wellFormedAt p idx = true ∧ i ≠ .evRsvd := by
  rcases decode_cases iw p idx with ⟨-, e⟩ | ⟨hr, hk, -⟩ | ⟨-, -, e⟩ | ⟨-, -, e⟩ | ⟨-, -, e⟩
  · exact ⟨_, e, rfl, nofun⟩
  · simp [admitted, hr, hk] at hw
  · rw [e]
    exact decodeByte_selects _ h
  · refine ⟨_, e, ?_⟩
    by_cases hp : p = .hunt <;> simp [hp, Instr.wellFormedAt]
  · refine ⟨_, e, ?_⟩
    by_cases hp : p = .hunt <;> simp [hp, Instr.wellFormedAt]

end Sys2Proof

/-! ### The invariants of R33 through the shared operations -/

namespace Sys2Proof.Machine

theorem bufSize_le (c : Config) : c.bufSize ≤ 260 := by
  have := c.maxPayload.isLt
  rw [bufSize_eq]
  omega

/-- Counting a byte whose cell exists does not wrap (R23). -/
theorem toNat_add_one_of_lt_bufSize {a : Count} {c : Config} (h : a.toNat < c.bufSize) :
    (a + 1).toNat = a.toNat + 1 := by
  have := bufSize_le c
  rw [BitVec.toNat_add, show (1 : Count).toNat = 1 from rfl]
  omega

/-- The high byte of a received checksum is the first one received (R72). -/
theorem receivedChecksum_high (hi lo : Byte) : (receivedChecksum hi lo).extractLsb' 8 8 = hi := by
  refine BitVec.eq_of_toNat_eq ?_
  rw [BitVec.extractLsb'_toNat, receivedChecksum_toNat, Nat.shiftRight_eq_div_pow]
  have := hi.isLt
  have := lo.isLt
  omega

theorem writtenBelow_write {m : Memory} {n : Nat} (h : writtenBelow m n) (b : Byte) :
    writtenBelow (m.write n b) (n + 1) := by
  intro a ha
  rw [Memory.cell?_write]
  split
  · rfl
  · exact h a (by omega)

theorem windowInv_clear : WindowInv .clear 0 := ⟨by decide, by decide⟩

theorem getElem?_bytes_shiftIn (w : Window) (b : Byte) {k : Nat} (h : k < 3) :
    (w.shiftIn b).bytes[k]? = w.bytes[k + 1]? := by
  match k, h with
  | 0, _ | 1, _ | 2, _ => rfl

/-- One more byte leaves one unfilled place less (R100). -/
theorem windowInv_shiftIn {w : Window} {n : BitVec 3} (h : WindowInv w n) (b : Byte) :
    WindowInv (w.shiftIn b) (nextWinN n) := by
  refine ⟨nextWinN_le n, fun k hk => ?_⟩
  rw [nextWinN_toNat] at hk
  rw [getElem?_bytes_shiftIn w b (by omega)]
  exact h.unfilled (k + 1) (by omega)

/-- The invariants say nothing of the model's own fields, the trace and the last outcome (log 2, log 3). -/
theorem inv_with_trace_out {s : State} (h : Inv s) (ws : List InputWord) (o : Option StepOutcome) :
    Inv { s with trace := ws, out := o } :=
  ⟨h.window, h.hdr, h.payload, h.checksumPhases, h.running, h.length, h.assembling, h.valid, h.counter, h.inside,
    h.written, h.canonical, h.packetLength⟩

theorem inv_report {s : State} (h : Inv s) (o : StepOutcome) : Inv (report o s) :=
  inv_with_trace_out h s.trace (some o)

theorem inv_setTrace {s : State} (h : Inv s) (ws : List InputWord) : Inv (setTrace ws s) :=
  inv_with_trace_out h ws s.out

/-- While hunting the window may take any value that meets its own invariant. -/
theorem inv_setWindow {s : State} (h : Inv s) (hp : s.phase = .hunt) {w : Window} {n : BitVec 3} (hw : WindowInv w n) :
    Inv (setWindow w n s) :=
  ⟨hw, h.hdr, h.payload, h.checksumPhases, h.running, h.length, fun hne => absurd hp hne, h.valid, h.counter, h.inside,
    h.written, h.canonical, h.packetLength⟩

/-- What the invariants say of a packet that is readable (R33 I6, R34). -/
def PacketInv (s : State) : Prop :=
  s.pktLen = s.idx ∧
  (∃ n, s.buf.cell? 4 = some n ∧ s.pktLen.toNat = 5 + n.toNat ∧ n ≤ s.cfg.maxPayload) ∧
  checksum s.cfg.cksumSeed (s.buf.prefixBytes s.pktLen.toNat) = s.sum ∧ s.ckHi = s.sum.extractLsb' 8 8 ∧
  writtenBelow s.buf s.idx.toNat

theorem Inv.packet {s : State} (h : Inv s) (hv : s.pktValid = true) : PacketInv s := by
  obtain ⟨-, hlen, hcell, hsum, hhigh⟩ := h.valid hv
  exact ⟨hlen, hcell, hsum, hhigh, h.written (.inr hv)⟩

/-- While hunting, the invariants speak of the window, of a readable packet and of the buffer only. -/
theorem inv_of_hunt {s : State} (hp : s.phase = .hunt) (window : WindowInv s.win s.winN)
    (packet : s.pktValid = true → PacketInv s) (counter : s.idx.toNat ≤ s.cfg.bufSize)
    (inside : ∀ a, s.cfg.bufSize ≤ a → s.buf.cell? a = none) (canonical : s.buf.wf = true)
    (packetLength : s.pktLen = 0 ∨ (5 ≤ s.pktLen.toNat ∧ s.pktLen.toNat ≤ s.cfg.bufSize)) : Inv s where
  window := window
  hdr := by simp [hp]
  payload := by simp [hp]
  checksumPhases := by simp [hp, inChecksumPhase]
  running hne := absurd hp hne
  length := by simp [hp, inChecksumPhase]
  assembling hne := absurd hp hne
  valid hv := by
    obtain ⟨hlen, hcell, hsum, hhigh, -⟩ := packet hv
    exact ⟨hp, hlen, hcell, hsum, hhigh⟩
  counter := counter
  inside := inside
  written hw := by
    obtain ⟨-, -, -, -, hwritten⟩ := packet (hw.resolve_left fun hne => hne hp)
    exact hwritten
  canonical := canonical
  packetLength := packetLength

/-- An outcome may end the hunt or the frame in any state that meets the invariants (R186). -/
theorem inv_raiseAndHunt {s : State} (h : Inv s) (o : StepOutcome) : Inv (raiseAndHunt o s) :=
  inv_of_hunt rfl windowInv_clear h.packet h.counter h.inside h.canonical h.packetLength

theorem inv_resetElements (s : State) : Inv (resetElements s) :=
  inv_of_hunt rfl windowInv_clear nofun (Nat.zero_le _) (fun _ _ => rfl) rfl (.inl rfl)

/-! ### The body of a frame that is being received -/

/-- What the invariants say of the bytes received since the preamble, whatever the phase: each of the first `idx` cells
is written and summed, no packet is readable and the window is clear (R33 I3, I5, I6, I7, R34). -/
structure BodyInv (s : State) : Prop where
  sum : s.sum = checksum s.cfg.cksumSeed (s.buf.prefixBytes s.idx.toNat)
  window : windowClear s
  noPacket : s.pktValid = false
  counter : s.idx.toNat ≤ s.cfg.bufSize
  inside : ∀ a, s.cfg.bufSize ≤ a → s.buf.cell? a = none
  written : writtenBelow s.buf s.idx.toNat
  canonical : s.buf.wf = true
  packetLength : s.pktLen = 0 ∨ (5 ≤ s.pktLen.toNat ∧ s.pktLen.toNat ≤ s.cfg.bufSize)

/-- No packet is readable while a frame is being received (R33 I6). -/
theorem Inv.noPacket {s : State} (h : Inv s) (hp : s.phase ≠ .hunt) : s.pktValid = false :=
  Bool.eq_false_iff.2 fun hv => hp (h.valid hv).1

theorem Inv.body {s : State} (h : Inv s) (hp : s.phase ≠ .hunt) : BodyInv s :=
  ⟨h.running hp, h.assembling hp, h.noPacket hp, h.counter, h.inside, h.written (.inl hp), h.canonical, h.packetLength⟩

namespace BodyInv

variable {s : State}

/-- The body's facts speak of neither `phase`, `len`, `ck_hi` nor the last outcome. -/
theorem congr_control (h : BodyInv s) (p : Phase) (l c : Byte) (o : Option StepOutcome) :
    BodyInv { s with phase := p, len := l, ckHi := c, out := o } :=
  ⟨h.sum, h.window, h.noPacket, h.counter, h.inside, h.written, h.canonical, h.packetLength⟩

/-- Each phase adds its own facts to those of the body (R33 I2, I4). -/
theorem inv (h : BodyInv s) (hdr : s.phase = .hdr → s.idx ≤ 4)
    (payload : s.phase = .payload →
      1 ≤ s.len ∧ s.len ≤ s.cfg.maxPayload ∧ 5 ≤ s.idx.toNat ∧ s.idx.toNat < 5 + s.len.toNat)
    (checksumPhases : inChecksumPhase s.phase → s.len ≤ s.cfg.maxPayload ∧ s.idx.toNat = 5 + s.len.toNat)
    (length : s.phase = .payload ∨ inChecksumPhase s.phase → s.buf.cell? 4 = some s.len) : Inv s where
  window := by
    obtain ⟨hw, hn⟩ := h.window
    rw [hw, hn]
    exact windowInv_clear
  hdr := hdr
  payload := payload
  checksumPhases := checksumPhases
  running _ := h.sum
  length := length
  assembling _ := h.window
  valid hv := by simp [h.noPacket] at hv
  counter := h.counter
  inside := h.inside
  written _ := h.written
  canonical := h.canonical
  packetLength := h.packetLength

theorem inv_hunt (h : BodyInv s) (hp : s.phase = .hunt) : Inv s :=
  h.inv (by simp [hp]) (by simp [hp]) (by simp [hp, inChecksumPhase]) (by simp [hp, inChecksumPhase])

theorem inv_hdr (h : BodyInv s) (hp : s.phase = .hdr) (hi : s.idx ≤ 4) : Inv s :=
  h.inv (fun _ => hi) (by simp [hp]) (by simp [hp, inChecksumPhase]) (by simp [hp, inChecksumPhase])

theorem inv_payload (h : BodyInv s) (hp : s.phase = .payload) (hc : s.buf.cell? 4 = some s.len)
    (hmax : s.len ≤ s.cfg.maxPayload) (h5 : 5 ≤ s.idx.toNat) (hi : s.idx.toNat < 5 + s.len.toNat) : Inv s :=
  h.inv (by simp [hp]) (fun _ => ⟨by bv_omega, hmax, h5, hi⟩) (by simp [hp, inChecksumPhase]) (fun _ => hc)

theorem inv_checksum (h : BodyInv s) (hp : inChecksumPhase s.phase) (hc : s.buf.cell? 4 = some s.len)
    (hmax : s.len ≤ s.cfg.maxPayload) (hi : s.idx.toNat = 5 + s.len.toNat) : Inv s :=
  h.inv (by rcases hp with hp | hp <;> simp [hp]) (by rcases hp with hp | hp <;> simp [hp]) (fun _ => ⟨hmax, hi⟩)
    (fun _ => hc)

/-- A byte stored at `idx` extends the body by that byte (R52, R151). -/
theorem store (h : BodyInv s) (b : Byte) (hi : s.idx.toNat < s.cfg.bufSize) : BodyInv (storeBodyByte s.idx b s) where
  sum := by
    simp only [storeBodyByte_sum, storeBodyByte_cfg, storeBodyByte_buf, storeBodyByte_idx]
    rw [toNat_add_one_of_lt_bufSize hi, Memory.prefixBytes_write_succ, checksum_snoc, ← h.sum]
  window := h.window
  noPacket := h.noPacket
  counter := by
    rw [storeBodyByte_idx, toNat_add_one_of_lt_bufSize hi]
    exact hi
  inside a ha := by
    rw [storeBodyByte_buf, Memory.cell?_write_other _ _ (Nat.ne_of_gt (Nat.lt_of_lt_of_le hi ha))]
    exact h.inside a ha
  written := by
    rw [storeBodyByte_idx, toNat_add_one_of_lt_bufSize hi]
    exact writtenBelow_write h.written b
  canonical := Memory.wf_write _ _ h.canonical
  packetLength := h.packetLength

end BodyInv

/-- A frame starts with an empty body (R150). -/
theorem bodyInv_startFrame {s : State} (h : Inv s) : BodyInv (startFrame s) :=
  ⟨rfl, ⟨rfl, rfl⟩, rfl, Nat.zero_le _, h.inside, fun _ ha => absurd ha (Nat.not_lt_zero _), h.canonical,
    h.packetLength⟩

/-- A frame judged good becomes the readable packet (R33 I6, R158). -/
theorem inv_deliver {s : State} {b : Byte} (h : Inv s) (hp : s.phase = .ckLo)
    (hck : receivedChecksum s.ckHi b = s.sum) (o : StepOutcome) : Inv (raiseAndHunt o (validatePacket s.idx s)) := by
  have hbody := h.body (by simp [hp])
  obtain ⟨hmax, hi⟩ := h.checksumPhases (.inr hp)
  have hhigh : s.ckHi = s.sum.extractLsb' 8 8 := by rw [← hck, receivedChecksum_high]
  have hpacket : PacketInv (raiseAndHunt o (validatePacket s.idx s)) :=
    ⟨rfl, ⟨s.len, h.length (.inr (.inr hp)), hi, hmax⟩, hbody.sum.symm, hhigh, hbody.written⟩
  exact inv_of_hunt rfl windowInv_clear (fun _ => hpacket) h.counter h.inside h.canonical
    (.inr ⟨hi ▸ Nat.le_add_right 5 _, h.counter⟩)

/-! ### Every selected instruction completes and keeps the invariants -/

/-- The instruction answers a next state, and that state meets the invariants. -/
def completesSafely (i : Instr) (s : State) : Prop := ∃ t, exec i s = .next t ∧ Inv t

theorem synByte_completesSafely {s : State} (h : Inv s) (hp : s.phase = .hunt) (b : Byte) :
    completesSafely (.synByte b) s := by
  rcases execSynByte_cases b s with ⟨-, e⟩ | ⟨-, e⟩
  · exact ⟨_, e, (bodyInv_startFrame h).inv_hdr rfl (by simp)⟩
  · exact ⟨_, e, inv_report (inv_setWindow h hp (windowInv_shiftIn h.window b)) _⟩

theorem asmHdr_completesSafely {s : State} (h : Inv s) (hp : s.phase = .hdr) (hi : s.idx < 4) (b : Byte) :
    completesSafely (.asmHdr b) s := by
  have hlt : s.idx.toNat < s.cfg.bufSize := by
    have := five_le_bufSize s.cfg
    bv_omega
  refine ⟨_, execAsmHdr_eq_next.2 ⟨hlt, rfl⟩, inv_report ?_ _⟩
  exact ((h.body (by simp [hp])).store b hlt).inv_hdr hp (by rw [storeBodyByte_idx]; bv_omega)

theorem asmLen_completesSafely {s : State} (h : Inv s) (hp : s.phase = .hdr) (hi : s.idx = 4) (b : Byte) :
    completesSafely (.asmLen b) s := by
  have hbody : BodyInv (storeBodyByte 4#9 b s) := by
    have hlt : s.idx.toNat < s.cfg.bufSize := by
      rw [hi]
      exact five_le_bufSize s.cfg
    have hstore := (h.body (by simp [hp])).store b hlt
    rwa [hi] at hstore
  have hcell : (s.buf.write 4 b).cell? 4 = some b := Memory.cell?_write_same _ _ _
  rcases execAsmLen_cases b s with ⟨-, e⟩ | ⟨rfl, e⟩ | ⟨hpos, hmax, e⟩
  · exact ⟨_, e, inv_raiseAndHunt ((hbody.congr_control .hunt b s.ckHi s.out).inv_hunt rfl) _⟩
  · refine ⟨_, e, (hbody.congr_control .ckHi 0 s.ckHi (some .quiet)).inv_checksum (.inl rfl) hcell ?_ rfl⟩
    exact BitVec.le_def.2 (Nat.zero_le _)
  · refine ⟨_, e, (hbody.congr_control .payload b s.ckHi (some .quiet)).inv_payload rfl hcell ?_ ?_ ?_⟩
    · exact BitVec.le_def.2 hmax
    · exact Nat.le_refl 5
    · exact Nat.lt_add_of_pos_right hpos

theorem asmPay_completesSafely {s : State} (h : Inv s) (hp : s.phase = .payload) (b : Byte) :
    completesSafely (.asmPay b) s := by
  obtain ⟨-, hmax, h5, hi⟩ := h.payload hp
  have hlt : s.idx.toNat < s.cfg.bufSize := by
    have := BitVec.le_def.1 hmax
    rw [bufSize_eq]
    omega
  have hbody := (h.body (by simp [hp])).store b hlt
  have hcell : (s.buf.write s.idx.toNat b).cell? 4 = some s.len := by
    rw [Memory.cell?_write_other _ _ (by omega)]
    exact h.length (.inl hp)
  have hidx := toNat_add_one_of_lt_bufSize hlt
  by_cases hend : (s.idx + 1).toNat = 5 + s.len.toNat
  · refine ⟨_, execAsmPay_eq_next.2 ⟨hlt, .inl ⟨hend, rfl⟩⟩, ?_⟩
    exact (hbody.congr_control .ckHi s.len s.ckHi (some .quiet)).inv_checksum (.inl rfl) hcell hmax hend
  · refine ⟨_, execAsmPay_eq_next.2 ⟨hlt, .inr ⟨hend, rfl⟩⟩, inv_report (hbody.inv_payload hp hcell hmax ?_ ?_) _⟩
    · rw [storeBodyByte_idx]
      omega
    · rw [storeBodyByte_idx, storeBodyByte_len]
      omega

theorem cksHi_completesSafely {s : State} (h : Inv s) (hp : s.phase = .ckHi) (b : Byte) :
    completesSafely (.cksHi b) s := by
  have hck : inChecksumPhase s.phase := .inl hp
  obtain ⟨hmax, hi⟩ := h.checksumPhases hck
  have hbody := (h.body (by simp [hp])).congr_control .ckLo s.len b (some .quiet)
  exact ⟨_, rfl, hbody.inv_checksum (.inr rfl) (h.length (.inr hck)) hmax hi⟩

theorem cksLo_completesSafely {s : State} (h : Inv s) (hp : s.phase = .ckLo) (b : Byte) :
    completesSafely (.cksLo b) s := by
  by_cases hck : receivedChecksum s.ckHi b = s.sum
  · exact ⟨_, execCksLo_eq_next.2 (.inl ⟨hck, h.counter, rfl⟩), inv_deliver h hp hck _⟩
  · exact ⟨_, execCksLo_eq_next.2 (.inr ⟨hck, rfl⟩), inv_raiseAndHunt h _⟩

/-- In a state that meets the invariants, an instruction whose row's condition holds completes and keeps them; only the
reserved one does not complete (R81, R33). -/
theorem exec_completesSafely {s : State} (h : Inv s) {i : Instr} (hw : i.wellFormedAt s.phase s.idx = true)
    (hr : i ≠ .evRsvd) : completesSafely i s := by
  cases i with
  | synByte b => exact synByte_completesSafely h (by simpa [Instr.wellFormedAt] using hw) b
  | synTmo => exact ⟨_, rfl, inv_raiseAndHunt h _⟩
  | synErr => exact ⟨_, rfl, inv_raiseAndHunt h _⟩
  | asmHdr b =>
    obtain ⟨hp, hi⟩ : s.phase = .hdr ∧ s.idx < 4 := by simpa [Instr.wellFormedAt] using hw
    exact asmHdr_completesSafely h hp hi b
  | asmLen b =>
    obtain ⟨hp, hi⟩ : s.phase = .hdr ∧ s.idx = 4 := by simpa [Instr.wellFormedAt] using hw
    exact asmLen_completesSafely h hp hi b
  | asmPay b => exact asmPay_completesSafely h (by simpa [Instr.wellFormedAt] using hw) b
  | asmTmo => exact ⟨_, rfl, inv_raiseAndHunt h _⟩
  | asmErr => exact ⟨_, rfl, inv_raiseAndHunt h _⟩
  | cksHi b => exact cksHi_completesSafely h (by simpa [Instr.wellFormedAt] using hw) b
  | cksLo b => exact cksLo_completesSafely h (by simpa [Instr.wellFormedAt] using hw) b
  | reset => exact ⟨_, rfl, inv_report (inv_resetElements s) _⟩
  | evRsvd => exact absurd rfl hr

/-! ### Steps and runs on admitted words -/

theorem step_of_decode {s : State} {iw : InputWord} {rest : List InputWord} {i : Instr} (ht : s.trace = iw :: rest)
    (hd : decode iw s.phase s.idx = .ok i) : step s = exec i (setTrace rest s) := by
  rw [step_cons ht]
  exact react_of_decode hd

/-- One step on an admitted word takes that word off the trace, keeps the parameters and keeps the invariants. -/
theorem step_of_admitted {s : State} {iw : InputWord} {rest : List InputWord} (h : Inv s) (ht : s.trace = iw :: rest)
    (hw : admitted iw = true) : ∃ t, step s = .next t ∧ Inv t ∧ t.trace = rest ∧ t.cfg = s.cfg := by
  obtain ⟨i, hd, hwf, hr⟩ := decode_of_admitted hw h.hdr
  obtain ⟨t, he, hinv⟩ := exec_completesSafely (inv_setTrace h rest) hwf hr
  obtain ⟨hcfg, htrace, -⟩ := exec_frame he
  exact ⟨t, (step_of_decode ht hd).trans he, hinv, htrace, hcfg⟩

/-- A run of admitted words goes on as long as there are words. -/
theorem runsTo_of_admitted {s : State} (h : Inv s) (ha : traceAdmitted s) {k : Nat} (hk : k ≤ s.trace.length) :
    ∃ t, runsTo k s t ∧ Inv t ∧ t.trace = s.trace.drop k ∧ t.cfg = s.cfg := by
  induction k generalizing s with
  | zero => exact ⟨s, runsTo_zero.2 rfl, h, rfl, rfl⟩
  | succ k ih =>
    cases ht : s.trace with
    | nil => simp [ht] at hk
    | cons iw rest =>
      obtain ⟨hiw, hrest⟩ : admitted iw = true ∧ ∀ w ∈ rest, admitted w = true := by
        simpa [traceAdmitted, ht] using ha
      obtain ⟨u, hu, hinv, rfl, hcfg⟩ := step_of_admitted h ht hiw
      obtain ⟨t, hrun, hinvt, htrace, hcfgt⟩ := ih hinv hrest (by simpa [ht] using hk)
      exact ⟨t, runsTo_succ.2 ⟨u, hu, hrun⟩, hinvt, htrace, hcfgt.trans hcfg⟩

/-- Settles O25: every admitted word completes and keeps the invariants, by induction on the number of words read. -/
theorem theBlockNeverStops : Obligations.TheBlockNeverStops :=
  fun _ h ha _ hk => runsTo_of_admitted h ha hk

/-! ### The reaction does not see the trace and the last outcome in the reaction -/

/-- The state with another trace to come and another last outcome (log 2, log 3). -/
def withTraceOut (ws : List InputWord) (o : Option StepOutcome) (s : State) : State := { s with trace := ws, out := o }

theorem mapNext_mapNext (f g : State → State) (r : Result) :
    mapNext f (mapNext g r) = mapNext (fun s => f (g s)) r := by
  cases r <;> rfl

theorem mapNext_ite (f : State → State) (c : Prop) [Decidable c] (r r' : Result) :
    mapNext f (if c then r else r') = if c then mapNext f r else mapNext f r' := apply_ite _ _ _ _

/-- A word that selects no operation is refused (R81, log 7). -/
theorem react_of_decode_error {iw : InputWord} {s : State} {e : DecodeError} (h : decode iw s.phase s.idx = .error e) :
    react iw s = .refused .noOperation := by
  cases e
  simp [react, h]

section
variable (ws : List InputWord) (o : Option StepOutcome) (s : State)

theorem takeBodyByte_withTraceOut (a : Count) (b : Byte) :
    takeBodyByte a b (withTraceOut ws o s) = mapNext (withTraceOut ws o) (takeBodyByte a b s) := by
  unfold takeBodyByte
  rw [mapNext_ite]
  rfl

/-- An operation that stores a body byte and ends by reporting an outcome of its own does not see the fields. -/
theorem storing_withTraceOut {f : State → State} (hf : ∀ u, f (withTraceOut ws o u) = setTrace ws (f u)) (a : Count)
    (b : Byte) : mapNext f (takeBodyByte a b (withTraceOut ws o s)) =
      mapNext (setTrace ws) (mapNext f (takeBodyByte a b s)) := by
  simp only [takeBodyByte_withTraceOut, mapNext_mapNext, hf]

theorem judgeLength_withTraceOut (b : Byte) :
    judgeLength b (withTraceOut ws o s) = setTrace ws (judgeLength b s) := by
  unfold judgeLength
  rw [apply_ite (setTrace ws), apply_ite (setTrace ws)]
  rfl

theorem endOfPayload_withTraceOut : endOfPayload (withTraceOut ws o s) = withTraceOut ws o (endOfPayload s) := by
  unfold endOfPayload
  rw [apply_ite (withTraceOut ws o)]
  rfl

theorem execSynByte_withTraceOut (b : Byte) :
    execSynByte b (withTraceOut ws o s) = mapNext (setTrace ws) (execSynByte b s) := by
  unfold execSynByte
  rw [mapNext_ite]
  rfl

theorem execCksLo_withTraceOut (b : Byte) :
    execCksLo b (withTraceOut ws o s) = mapNext (setTrace ws) (execCksLo b s) := by
  unfold execCksLo withPacket
  rw [mapNext_ite, mapNext_ite]
  rfl

/-- Every instruction overwrites the last outcome and hands the trace on unread. -/
theorem exec_withTraceOut (i : Instr) : exec i (withTraceOut ws o s) = mapNext (setTrace ws) (exec i s) := by
  cases i with
  | synByte b => exact execSynByte_withTraceOut ws o s b
  | asmHdr b => exact storing_withTraceOut ws o s (fun _ => rfl) _ b
  | asmLen b => exact storing_withTraceOut ws o s (fun u => judgeLength_withTraceOut ws o (setLen b u) b) _ b
  | asmPay b =>
    exact storing_withTraceOut ws o s (fun u => congrArg (report .quiet) (endOfPayload_withTraceOut ws o u)) _ b
  | cksLo b => exact execCksLo_withTraceOut ws o s b
  | synTmo | synErr | asmTmo | asmErr | cksHi _ | reset | evRsvd => rfl

theorem react_withTraceOut (iw : InputWord) :
    react iw (withTraceOut ws o s) = mapNext (setTrace ws) (react iw s) := by
  cases h : decode iw s.phase s.idx with
  | ok i =>
    calc react iw (withTraceOut ws o s)
      _ = exec i (withTraceOut ws o s) := react_of_decode h
      _ = mapNext (setTrace ws) (exec i s) := exec_withTraceOut ws o s i
      _ = mapNext (setTrace ws) (react iw s) := by rw [react_of_decode h]
  | error e =>
    rw [react_of_decode_error h]
    exact react_of_decode_error h

end

/-- Settles O51: changing the two fields beforehand only changes the trace of the answer. -/
theorem reactionDependsOnNothingElse : Obligations.ReactionDependsOnNothingElse := by
  intro s iw ws o
  have hreact {r : Result} (h : react iw s = r) : react iw (withTraceOut ws o s) = mapNext (setTrace ws) r :=
    h ▸ react_withTraceOut ws o s iw
  exact ⟨fun _ => hreact, fun _ => hreact, fun _ => hreact⟩

/-! ### A step runs the decoded instruction -/

/-- Decoding undoes encoding wherever the instruction's row is selected (R74, R80). -/
theorem decode_encode {i : Instr} {p : Phase} {idx : Count} (h : i.wellFormedAt p idx = true) :
    decode (encode i) p idx = .ok i := by
  have hi : Laws.RoundTrip.Statement i := by
    cases i with
    | synByte b => exact Laws.RoundTrip.synByte b
    | synTmo => exact Laws.RoundTrip.synTmo
    | synErr => exact Laws.RoundTrip.synErr
    | asmHdr b => exact Laws.RoundTrip.asmHdr b
    | asmLen b => exact Laws.RoundTrip.asmLen b
    | asmPay b => exact Laws.RoundTrip.asmPay b
    | asmTmo => exact Laws.RoundTrip.asmTmo
    | asmErr => exact Laws.RoundTrip.asmErr
    | cksHi b => exact Laws.RoundTrip.cksHi b
    | cksLo b => exact Laws.RoundTrip.cksLo b
    | reset => exact Laws.RoundTrip.reset
    | evRsvd => exact Laws.RoundTrip.evRsvd
  exact hi p idx h

/-- Settles O6: a step on a decoded word, on an encoded instruction, and with no word waiting. -/
theorem stepRunsTheDecodedInstruction : Obligations.StepRunsTheDecodedInstruction :=
  ⟨fun _ _ _ _ ht hd => step_of_decode ht hd, fun _ _ _ ht hw => step_of_decode ht (decode_encode hw),
    fun _ ht => step_idle ht⟩

end Sys2Proof.Machine

/-! ### What an instruction can do, case by case -/

namespace Sys2Proof

/-- A header byte with `idx > 4` selects no operation (R81). -/
theorem decodeByte_hdr_of_gt (b : Byte) {idx : Count} (h : 4 < idx) :
    decodeByte b .hdr idx = .error .headerIndexTooLarge := by
  have hlt : ¬idx < 4 := by bv_omega
  have hne : idx ≠ 4 := by bv_omega
  exact (if_neg hlt).trans (if_neg hne)

/-- What a word decodes to is an instruction whose row's condition holds (R80). -/
theorem wellFormedAt_of_decode {iw : InputWord} {p : Phase} {idx : Count} {i : Instr} (h : decode iw p idx = .ok i) :
    i.wellFormedAt p idx = true := by
  rcases decode_cases iw p idx with ⟨-, e⟩ | ⟨-, -, e⟩ | ⟨-, -, e⟩ | ⟨-, -, e⟩ | ⟨-, -, e⟩
  · cases e.symm.trans h; rfl
  · cases e.symm.trans h; rfl
  · by_cases hidx : p = .hdr → idx ≤ 4
    · obtain ⟨j, hj, hw, -⟩ := decodeByte_selects (iwData iw) hidx
      cases (e.trans hj).symm.trans h
      exact hw
    · obtain ⟨rfl, hgt⟩ : p = .hdr ∧ 4 < idx := by simpa using hidx
      cases (e.trans (decodeByte_hdr_of_gt _ hgt)).symm.trans h
  · cases e.symm.trans h
    by_cases hp : p = .hunt <;> simp [hp, Instr.wellFormedAt]
  · cases e.symm.trans h
    by_cases hp : p = .hunt <;> simp [hp, Instr.wellFormedAt]

end Sys2Proof

namespace Sys2Proof.Machine

/-- The ways in which an instruction can complete: which instruction, when, and with which next state. -/
inductive Completes (s : State) : Instr → State → Prop
  | startFrame {b : Byte} (hm : preambleMatch (s.win.shiftIn b) (nextWinN s.winN) = true) :
      Completes s (.synByte b) (startFrame s)
  | slide {b : Byte} (hm : preambleMatch (s.win.shiftIn b) (nextWinN s.winN) = false) :
      Completes s (.synByte b) (report .quiet (setWindow (s.win.shiftIn b) (nextWinN s.winN) s))
  | busIdle : Completes s .synTmo (raiseAndHunt .busIdle s)
  | huntFailure : Completes s .synErr (raiseAndHunt .ioFailure s)
  | header {b : Byte} (hi : s.idx.toNat < s.cfg.bufSize) :
      Completes s (.asmHdr b) (report .quiet (storeBodyByte s.idx b s))
  | lengthOutOfRange {b : Byte} (hb : s.cfg.maxPayload.toNat < b.toNat) :
      Completes s (.asmLen b) (raiseAndHunt (.lengthOutOfRange b) (setLen b (storeBodyByte 4#9 b s)))
  | noPayload :
      Completes s (.asmLen 0) (report .quiet (setPhase .ckHi (setLen 0 (storeBodyByte 4#9 0 s))))
  | somePayload {b : Byte} (hpos : 0 < b.toNat) (hmax : b.toNat ≤ s.cfg.maxPayload.toNat) :
      Completes s (.asmLen b) (report .quiet (setPhase .payload (setLen b (storeBodyByte 4#9 b s))))
  | lastPayload {b : Byte} (hi : s.idx.toNat < s.cfg.bufSize)
      (hend : (s.idx + 1).toNat = 5 + s.len.toNat) :
      Completes s (.asmPay b) (report .quiet (setPhase .ckHi (storeBodyByte s.idx b s)))
  | morePayload {b : Byte} (hi : s.idx.toNat < s.cfg.bufSize)
      (hend : (s.idx + 1).toNat ≠ 5 + s.len.toNat) :
      Completes s (.asmPay b) (report .quiet (storeBodyByte s.idx b s))
  | shortRead : Completes s .asmTmo (raiseAndHunt (.shortRead (bytesConsumed s)) s)
  | frameFailure : Completes s .asmErr (raiseAndHunt .ioFailure s)
  | highByte {b : Byte} : Completes s (.cksHi b) (report .quiet (setPhase .ckLo (setCkHi b s)))
  | deliver {b : Byte} (hck : receivedChecksum s.ckHi b = s.sum) (hi : s.idx.toNat ≤ s.cfg.bufSize) :
      Completes s (.cksLo b)
        (raiseAndHunt (.packetOk (s.buf.prefixBytes s.idx.toNat)) (validatePacket s.idx s))
  | discard {b : Byte} (hck : receivedChecksum s.ckHi b ≠ s.sum) :
      Completes s (.cksLo b) (raiseAndHunt .checksumMismatch s)
  | reset : Completes s .reset (report .quiet (resetElements s))

theorem completes_of_exec {i : Instr} {s t : State} (h : exec i s = .next t) : Completes s i t := by
  cases i with
  | synByte b =>
    rcases execSynByte_cases b s with ⟨hm, e⟩ | ⟨hm, e⟩ <;> cases e.symm.trans h
    · exact .startFrame hm
    · exact .slide hm
  | synTmo => cases h; exact .busIdle
  | synErr => cases h; exact .huntFailure
  | asmHdr b =>
    obtain ⟨hi, rfl⟩ := execAsmHdr_eq_next.1 h
    exact .header hi
  | asmLen b =>
    rcases execAsmLen_cases b s with ⟨hb, e⟩ | ⟨rfl, e⟩ | ⟨hpos, hmax, e⟩ <;> cases e.symm.trans h
    · exact .lengthOutOfRange hb
    · exact .noPayload
    · exact .somePayload hpos hmax
  | asmPay b =>
    obtain ⟨hi, ⟨hend, rfl⟩ | ⟨hend, rfl⟩⟩ := execAsmPay_eq_next.1 h
    · exact .lastPayload hi hend
    · exact .morePayload hi hend
  | asmTmo => cases h; exact .shortRead
  | asmErr => cases h; exact .frameFailure
  | cksHi b => cases h; exact .highByte
  | cksLo b =>
    rcases execCksLo_eq_next.1 h with ⟨hck, hi, rfl⟩ | ⟨hck, rfl⟩
    · exact .deliver hck hi
    · exact .discard hck
  | reset => cases h; exact .reset
  | evRsvd => cases h

theorem exec_of_completes {i : Instr} {s t : State} (h : Completes s i t) : exec i s = .next t := by
  cases h with
  | @startFrame b hm =>
    rcases execSynByte_cases b s with ⟨-, e⟩ | ⟨hm', -⟩
    · exact e
    · simp [hm] at hm'
  | @slide b hm =>
    rcases execSynByte_cases b s with ⟨hm', -⟩ | ⟨-, e⟩
    · simp [hm] at hm'
    · exact e
  | header hi => exact execAsmHdr_eq_next.2 ⟨hi, rfl⟩
  | @lengthOutOfRange b hb =>
    rcases execAsmLen_cases b s with ⟨-, e⟩ | ⟨rfl, -⟩ | ⟨-, hmax, -⟩
    · exact e
    · simp at hb
    · omega
  | noPayload =>
    rcases execAsmLen_cases 0 s with ⟨hb, -⟩ | ⟨-, e⟩ | ⟨hpos, -⟩
    · simp at hb
    · exact e
    · simp at hpos
  | @somePayload b hpos hmax =>
    rcases execAsmLen_cases b s with ⟨hb, -⟩ | ⟨rfl, -⟩ | ⟨-, -, e⟩
    · omega
    · simp at hpos
    · exact e
  | lastPayload hi hend => exact execAsmPay_eq_next.2 ⟨hi, .inl ⟨hend, rfl⟩⟩
  | morePayload hi hend => exact execAsmPay_eq_next.2 ⟨hi, .inr ⟨hend, rfl⟩⟩
  | deliver hck hi => exact execCksLo_eq_next.2 (.inl ⟨hck, hi, rfl⟩)
  | discard hck => exact execCksLo_eq_next.2 (.inr ⟨hck, rfl⟩)
  | busIdle | huntFailure | shortRead | frameFailure | highByte | reset => rfl

/-- `Completes` is exactly what the meanings answer. -/
theorem exec_eq_next {i : Instr} {s t : State} : exec i s = .next t ↔ Completes s i t :=
  ⟨completes_of_exec, exec_of_completes⟩

/-! ### Every step keeps the invariants (R33) -/

theorem inv_exec {s t : State} (h : Inv s) {i : Instr} (hw : i.wellFormedAt s.phase s.idx = true)
    (he : exec i s = .next t) : Inv t := by
  have hr : i ≠ .evRsvd := by
    rintro rfl
    cases he
  obtain ⟨u, hu, hinv⟩ := exec_completesSafely h hw hr
  cases hu.symm.trans he
  exact hinv

/-- Settles O24: an idle edge changes no element, and a decoded instruction meets its row's condition. -/
theorem everyStepKeepsTheInvariants : Obligations.EveryStepKeepsTheInvariants := by
  intro s t h hs
  rcases step_cases hs with ⟨-, rfl⟩ | ⟨iw, rest, i, -, hd, he⟩
  · exact inv_with_trace_out h s.trace none
  · exact inv_exec (inv_setTrace h rest) (wellFormedAt_of_decode hd) he

/-- Settles O22: R34's values. -/
theorem resetStateValues : Obligations.ResetStateValues :=
  ⟨rfl, rfl, rfl, rfl, rfl, rfl, rfl, rfl, rfl, Memory.cell?_nil⟩

/-- Settles O23: the reset state is what `RESET` leaves in any state with those parameters. -/
theorem resetMeetsTheInvariants : Obligations.ResetMeetsTheInvariants :=
  fun c ws => inv_with_trace_out (inv_resetElements { State.reset with cfg := c }) ws none

/-! ### The model's own stops (log 6, log 7) -/

/-- The received checksum matches exactly when its two bytes, high byte first, are the number in `sum` (R72). -/
theorem receivedChecksum_eq_iff (hi lo : Byte) (sum : Sum16) :
    receivedChecksum hi lo = sum ↔ 256 * hi.toNat + lo.toNat = sum.toNat := by
  rw [← receivedChecksum_toNat, BitVec.toNat_inj]

theorem execCksLo_of_gt_bufSize {s : State} {b : Byte} (hi : s.cfg.bufSize < s.idx.toNat)
    (hck : receivedChecksum s.ckHi b = s.sum) : execCksLo b s = .fault .outsideBuffer := by
  rw [execCksLo, if_pos hck, withPacket, if_neg (Nat.not_le.2 hi)]

/-- A phase that stores at `idx` has the cell for it (R33 I2, I7). -/
theorem Inv.idx_lt_bufSize {s : State} (h : Inv s) (hp : s.phase = .hdr ∨ s.phase = .payload) :
    s.idx.toNat < s.cfg.bufSize := by
  rw [bufSize_eq]
  rcases hp with hp | hp
  · have := h.hdr hp
    bv_omega
  · obtain ⟨-, hmax, -, hi⟩ := h.payload hp
    bv_omega

/-- Settles O19: each stop from its own condition, and the invariants against all of them. -/
theorem stopsOutsideTheInvariants : Obligations.StopsOutsideTheInvariants := by
  intro s b
  refine ⟨fun hi => ?_, fun hi hck => execCksLo_of_gt_bufSize hi ((receivedChecksum_eq_iff _ _ _).2 hck),
    fun hp hi => ?_, fun h => ⟨h.idx_lt_bufSize, h.counter, fun ⟨hp, hi⟩ => ?_⟩⟩
  · have htake := takeBodyByte_of_ge b hi
    exact ⟨congrArg (mapNext _) htake, congrArg (mapNext _) htake⟩
  · refine react_of_decode_error (e := .headerIndexTooLarge) ?_
    rw [hp]
    exact (decode_byteWord b .hdr s.idx).trans (decodeByte_hdr_of_gt b hi)
  · exact absurd (h.hdr hp) (BitVec.not_le.2 hi)

end Sys2Proof.Machine

/-! ### Who writes the packet registers and the frame registers (R23, R24, R26, R27, R28) -/

namespace Sys2Proof.Machine

/-- A byte completes the preamble when at least three were counted before it and the last four are `PREAMBLE` (R100). -/
theorem preambleMatch_shiftIn_iff (w : Window) (n : BitVec 3) (b : Byte) :
    preambleMatch (w.shiftIn b) (nextWinN n) = true ↔
      3 ≤ n.toNat ∧ [w.b1, w.b2, w.b3, b] = [0xFF, 0x00, 0xFF, 0xA5] := by
  have hn : nextWinN n = 4 ↔ 3 ≤ n.toNat := by
    revert n
    decide
  rw [preambleMatch_iff, hn]
  simp [Window.shiftIn]

/-- Hunting without a match leaves every read of the packet as it was (R53). -/
theorem readPort_of_hunting {i : Instr} {s t : State} (h : exec i s = .next t)
    (hi : i = .synTmo ∨ i = .synErr ∨ (∃ b, i = .synByte b) ∧ t.out ≠ some .synchronized) (a : Count) :
    readPort t a = readPort s a := by
  rcases hi with rfl | rfl | ⟨⟨b, rfl⟩, hout⟩
  · cases h; rfl
  · cases h; rfl
  · cases completes_of_exec h with
    | startFrame _ => exact absurd rfl hout
    | slide _ => rfl

/-- Settles O30: the writers of `pkt_valid` case by case, and the gate of the read port. -/
theorem whoWritesPacketValid : Obligations.WhoWritesPacketValid := by
  refine ⟨fun i s t h => ?_, fun _ _ hv => readPort_eq_none.2 (.inl hv), fun _ _ _ a h hi => readPort_of_hunting h hi a⟩
  cases completes_of_exec h with
  | startFrame hm => exact (if_pos ((preambleMatch_shiftIn_iff _ _ _).1 hm)).symm
  | slide hm => exact (if_neg fun hc => by simp [(preambleMatch_shiftIn_iff _ _ _).2 hc] at hm).symm
  | deliver hck _ => exact (if_pos ((receivedChecksum_eq_iff _ _ _).1 hck)).symm
  | discard hck => exact (if_neg (mt (receivedChecksum_eq_iff _ _ _).2 hck)).symm
  | _ => rfl

/-- The length of a readable packet is fixed by its byte at offset 4 (R20, R33 I6). -/
theorem Inv.pktLen_of_pktValid {s : State} (h : Inv s) (hv : s.pktValid = true) :
    s.pktLen.toNat = 5 + (s.buf.byteAt 4).toNat ∧ (s.buf.byteAt 4).toNat ≤ s.cfg.maxPayload.toNat := by
  obtain ⟨-, ⟨n, hcell, hlen, hmax⟩, -⟩ := h.packet hv
  rw [Memory.byteAt_of_cell? hcell]
  exact ⟨hlen, BitVec.le_def.1 hmax⟩

theorem pktLen_of_delivered {s t : State} {b : Byte} (h : Inv s) (hp : s.phase = .ckLo)
    (he : exec (.cksLo b) s = .next t) (hv : t.pktValid = true) : t.pktLen.toNat = 5 + s.len.toNat := by
  cases completes_of_exec he with
  | deliver _ _ => exact (h.checksumPhases (.inr hp)).2
  | discard _ => exact absurd hv (by simp [h.noPacket, hp])

/-- Settles O31: the writers of `pkt_len` case by case; its range is what the invariants say of it. -/
theorem whoWritesPacketLength : Obligations.WhoWritesPacketLength := by
  refine ⟨fun i s t h => ?_, fun s h => ⟨h.packetLength.imp_right And.left, fun hv => ?_⟩,
    fun _ _ _ h hp he hv => pktLen_of_delivered h hp he hv⟩
  · cases completes_of_exec h with
    | deliver hck _ => exact (if_pos ((receivedChecksum_eq_iff _ _ _).1 hck)).symm
    | discard hck => exact (if_neg (mt (receivedChecksum_eq_iff _ _ _).2 hck)).symm
    | _ => rfl
  · obtain ⟨hlen, hmax⟩ := h.pktLen_of_pktValid hv
    exact ⟨by omega, by omega, hlen⟩

/-- Settles O34: by the ways in which an instruction can complete. -/
theorem whoWritesTheCounterTheLengthAndTheHighByte :
    Obligations.WhoWritesTheCounterTheLengthAndTheHighByte := by
  intro i s t h
  cases completes_of_exec h with
  | startFrame _ => exact ⟨(if_pos rfl).symm, rfl, rfl⟩
  | slide _ => exact ⟨(if_neg nofun).symm, rfl, rfl⟩
  | _ => exact ⟨rfl, rfl, rfl⟩

end Sys2Proof.Machine

/-! ### What a hunting block holds is not seen (R34, R35, U10)

Two runs are compared: one from `s`, and one from `s` with other contents of the registers and of the buffer that a
hunting block does not read. The second run stays the first with such other contents, which agree with those of the first
wherever the block reads them. -/

namespace Sys2Proof.Machine

/-- The first `n` bytes of two buffers are the same. -/
def sameBelow (m m' : Memory) (n : Nat) : Prop := ∀ a, a < n → m.byteAt a = m'.byteAt a

namespace sameBelow

variable {m m' : Memory} {n : Nat}

theorem prefixBytes (h : sameBelow m m' n) : m.prefixBytes n = m'.prefixBytes n :=
  List.map_congr_left fun a ha => h a (List.mem_range.1 ha)

theorem write (h : sameBelow m m' n) (a : Nat) (b : Byte) : sameBelow (m.write a b) (m'.write a b) n := by
  intro a' ha'
  by_cases haa : a' = a
  · rw [haa, Memory.byteAt_write_same, Memory.byteAt_write_same]
  · rw [Memory.byteAt_write_other _ _ haa, Memory.byteAt_write_other _ _ haa, h a' ha']

theorem write_succ (h : sameBelow m m' n) (b : Byte) : sameBelow (m.write n b) (m'.write n b) (n + 1) := by
  intro a ha
  rcases Nat.lt_succ_iff_lt_or_eq.1 ha with hlt | rfl
  · exact h.write n b a hlt
  · rw [Memory.byteAt_write_same, Memory.byteAt_write_same]

end sameBelow

/-- Contents of the registers that are stale in `HUNT` (R35), and of the buffer (R34). -/
structure Stale where
  idx : Count
  len : Byte
  sum : Sum16
  ckHi : Byte
  buf : Memory

/-- The state with these contents in place of its own. -/
def Stale.overlay (r : Stale) (s : State) : State :=
  { s with idx := r.idx, len := r.len, sum := r.sum, ckHi := r.ckHi, buf := r.buf }

/-- The contents agree with those of the state wherever the block reads them: `idx`, `sum` and the bytes received within
a frame, `len` while the payload is counted, `ck_hi` until the frame is judged, and the packet while it is readable. -/
structure Stale.Unseen (r : Stale) (s : State) : Prop where
  frame : s.phase ≠ .hunt → r.idx = s.idx ∧ r.sum = s.sum ∧ sameBelow r.buf s.buf s.idx.toNat
  len : s.phase = .payload → r.len = s.len
  ckHi : s.phase = .ckLo → r.ckHi = s.ckHi
  packet : s.pktValid = true → sameBelow r.buf s.buf s.pktLen.toNat

namespace Stale

/-- What `storeBodyByte` makes of the contents. -/
def store (r : Stale) (a : Count) (b : Byte) : Stale :=
  { r with idx := a + 1, sum := accumulate r.sum b, buf := r.buf.write a.toNat b }

section
variable (r : Stale) (s : State)

@[simp] theorem overlay_phase : (r.overlay s).phase = s.phase := rfl
@[simp] theorem overlay_idx : (r.overlay s).idx = r.idx := rfl
@[simp] theorem overlay_len : (r.overlay s).len = r.len := rfl
@[simp] theorem overlay_sum : (r.overlay s).sum = r.sum := rfl
@[simp] theorem overlay_ckHi : (r.overlay s).ckHi = r.ckHi := rfl
@[simp] theorem overlay_buf : (r.overlay s).buf = r.buf := rfl
@[simp] theorem overlay_cfg : (r.overlay s).cfg = s.cfg := rfl
@[simp] theorem overlay_trace : (r.overlay s).trace = s.trace := rfl

end

namespace Unseen

variable {r : Stale} {s : State}

theorem idx_eq (h : Unseen r s) (hp : s.phase ≠ .hunt) : r.idx = s.idx := (h.frame hp).1

/-- While hunting only a readable packet is seen. -/
theorem of_hunt (hp : s.phase = .hunt) (packet : s.pktValid = true → sameBelow r.buf s.buf s.pktLen.toNat) :
    Unseen r s :=
  ⟨fun hne => absurd hp hne, by simp [hp], by simp [hp], packet⟩

theorem raiseAndHunt (h : Unseen r s) (o : StepOutcome) : Unseen r (raiseAndHunt o s) := of_hunt rfl h.packet

theorem report (h : Unseen r s) (o : StepOutcome) : Unseen r (report o s) := ⟨h.frame, h.len, h.ckHi, h.packet⟩

theorem setTrace (h : Unseen r s) (ws : List InputWord) : Unseen r (setTrace ws s) :=
  ⟨h.frame, h.len, h.ckHi, h.packet⟩

theorem idle (h : Unseen r s) : Unseen r (idle s) := ⟨h.frame, h.len, h.ckHi, h.packet⟩

theorem setLen (h : Unseen r s) (b : Byte) : Unseen { r with len := b } (setLen b s) :=
  ⟨h.frame, fun _ => rfl, h.ckHi, h.packet⟩

/-- A frame goes on to its payload once both runs count to the same length. -/
theorem enterPayload (h : Unseen r s) (hp : s.phase ≠ .hunt) (hl : r.len = s.len) : Unseen r (setPhase .payload s) :=
  ⟨fun _ => h.frame hp, fun _ => hl, nofun, h.packet⟩

theorem enterCkHi (h : Unseen r s) (hp : s.phase ≠ .hunt) : Unseen r (setPhase .ckHi s) :=
  ⟨fun _ => h.frame hp, nofun, nofun, h.packet⟩

/-- A byte stored at `idx` within a frame goes to the same place in both runs. -/
theorem store (h : Unseen r s) (hp : s.phase ≠ .hunt) (hi : s.idx.toNat < s.cfg.bufSize) (b : Byte) :
    Unseen (r.store s.idx b) (storeBodyByte s.idx b s) where
  frame _ := by
    obtain ⟨-, hsum, hbuf⟩ := h.frame hp
    refine ⟨rfl, congrArg (accumulate · b) hsum, ?_⟩
    rw [storeBodyByte_idx, toNat_add_one_of_lt_bufSize hi]
    exact hbuf.write_succ b
  len := h.len
  ckHi := h.ckHi
  packet hv := (h.packet hv).write _ b

theorem readPort_overlay (h : Unseen r s) (a : Count) : readPort (r.overlay s) a = readPort s a := by
  cases hport : readPort s a with
  | none =>
    have hgate := readPort_eq_none.1 hport
    exact readPort_eq_none.2 hgate
  | some b =>
    obtain ⟨hv, ha, rfl⟩ := readPort_eq_some.1 hport
    exact readPort_eq_some.2 ⟨hv, ha, (h.packet hv a.toNat (BitVec.lt_def.1 ha)).symm⟩

end Unseen

/-- With these contents the instruction completes in the same way, up to contents that are unseen again. -/
def Simulates (r : Stale) (i : Instr) (s t : State) : Prop :=
  ∃ r' : Stale, Completes (r.overlay s) i (r'.overlay t) ∧ r'.Unseen t

section
variable {r : Stale} {s t : State} {b : Byte} (h : r.Unseen s)
include h

theorem simulates_synByte (hp : s.phase = .hunt) (hc : Completes s (.synByte b) t) :
    r.Simulates (.synByte b) s t := by
  cases hc with
  | startFrame hm =>
    exact ⟨⟨0, r.len, s.cfg.cksumSeed, r.ckHi, r.buf⟩, .startFrame hm, fun _ => ⟨rfl, rfl, nofun⟩, nofun, nofun, nofun⟩
  | slide hm => exact ⟨r, .slide hm, .of_hunt hp h.packet⟩

theorem simulates_asmHdr (hp : s.phase = .hdr) (hc : Completes s (.asmHdr b) t) : r.Simulates (.asmHdr b) s t := by
  have hf : s.phase ≠ .hunt := by simp [hp]
  have hidx := h.idx_eq hf
  cases hc with
  | header hi => exact ⟨r.store s.idx b, hidx ▸ .header (by simpa [hidx] using hi), (h.store hf hi b).report _⟩

theorem simulates_asmLen (hp : s.phase = .hdr) (hi : s.idx = 4) (hc : Completes s (.asmLen b) t) :
    r.Simulates (.asmLen b) s t := by
  have hf : s.phase ≠ .hunt := by simp [hp]
  have hlt : s.idx.toNat < s.cfg.bufSize := hi ▸ five_le_bufSize s.cfg
  have hst : Unseen { r.store 4 b with len := b } (setLen b (storeBodyByte 4 b s)) :=
    (hi ▸ h.store hf hlt b : (r.store 4 b).Unseen (storeBodyByte 4 b s)).setLen b
  cases hc with
  | lengthOutOfRange hb => exact ⟨{ r.store 4 b with len := b }, .lengthOutOfRange hb, hst.raiseAndHunt _⟩
  | noPayload => exact ⟨{ r.store 4 0 with len := 0 }, .noPayload, (hst.enterCkHi hf).report _⟩
  | somePayload hpos hmax =>
    exact ⟨{ r.store 4 b with len := b }, .somePayload hpos hmax, (hst.enterPayload hf rfl).report _⟩

theorem simulates_asmPay (hp : s.phase = .payload) (hc : Completes s (.asmPay b) t) :
    r.Simulates (.asmPay b) s t := by
  have hf : s.phase ≠ .hunt := by simp [hp]
  have hidx := h.idx_eq hf
  have hlen := h.len hp
  cases hc with
  | lastPayload hi hend =>
    exact ⟨r.store s.idx b, hidx ▸ .lastPayload (by simpa [hidx] using hi) (by simpa [hidx, hlen] using hend),
      ((h.store hf hi b).enterCkHi hf).report _⟩
  | morePayload hi hend =>
    exact ⟨r.store s.idx b, hidx ▸ .morePayload (by simpa [hidx] using hi) (by simpa [hidx, hlen] using hend),
      (h.store hf hi b).report _⟩

theorem simulates_asmTmo (hp : s.phase ≠ .hunt) (hc : Completes s .asmTmo t) : r.Simulates .asmTmo s t := by
  cases hc with
  | shortRead =>
    have hgot : bytesConsumed (r.overlay s) = bytesConsumed s :=
      congrArg (· + if s.phase = .ckLo then 1 else 0) (h.idx_eq hp)
    exact ⟨r, hgot ▸ .shortRead, h.raiseAndHunt _⟩

theorem simulates_cksHi (hp : s.phase = .ckHi) (hc : Completes s (.cksHi b) t) : r.Simulates (.cksHi b) s t := by
  cases hc with
  | highByte =>
    exact ⟨{ r with ckHi := b }, .highByte, fun _ => h.frame (by simp [hp]), nofun, fun _ => rfl, h.packet⟩

theorem simulates_cksLo (hp : s.phase = .ckLo) (hc : Completes s (.cksLo b) t) : r.Simulates (.cksLo b) s t := by
  obtain ⟨hidx, hsum, hbuf⟩ := h.frame (by simp [hp])
  have hckHi := h.ckHi hp
  cases hc with
  | deliver hck hi =>
    have hrun := Completes.deliver (s := r.overlay s) (b := b) (by simpa [hckHi, hsum] using hck)
      (by simpa [hidx] using hi)
    rw [overlay_buf, overlay_idx, hidx, hbuf.prefixBytes] at hrun
    exact ⟨r, hrun, .of_hunt rfl fun _ => hbuf⟩
  | discard hck => exact ⟨r, .discard (by simpa [hckHi, hsum] using hck), h.raiseAndHunt _⟩

/-- Every selected instruction completes in the same way. -/
theorem simulates {i : Instr} (hw : i.wellFormedAt s.phase s.idx = true) (hc : Completes s i t) : r.Simulates i s t := by
  cases i with
  | synByte b => exact simulates_synByte h (by simpa [Instr.wellFormedAt] using hw) hc
  | synTmo => cases hc; exact ⟨r, .busIdle, h.raiseAndHunt _⟩
  | synErr => cases hc; exact ⟨r, .huntFailure, h.raiseAndHunt _⟩
  | asmHdr b =>
    obtain ⟨hp, -⟩ : s.phase = .hdr ∧ s.idx < 4 := by simpa [Instr.wellFormedAt] using hw
    exact simulates_asmHdr h hp hc
  | asmLen b =>
    obtain ⟨hp, hi⟩ : s.phase = .hdr ∧ s.idx = 4 := by simpa [Instr.wellFormedAt] using hw
    exact simulates_asmLen h hp hi hc
  | asmPay b => exact simulates_asmPay h (by simpa [Instr.wellFormedAt] using hw) hc
  | asmTmo => exact simulates_asmTmo h (by simpa [Instr.wellFormedAt] using hw) hc
  | asmErr => cases hc; exact ⟨r, .frameFailure, h.raiseAndHunt _⟩
  | cksHi b => exact simulates_cksHi h (by simpa [Instr.wellFormedAt] using hw) hc
  | cksLo b => exact simulates_cksLo h (by simpa [Instr.wellFormedAt] using hw) hc
  | reset => cases hc; exact ⟨⟨0, 0, 0, 0, []⟩, .reset, .of_hunt rfl nofun⟩
  | evRsvd => cases hc

/-- A stale `idx` selects no other instruction (R80). -/
theorem decode_overlay (iw : InputWord) : decode iw s.phase r.idx = decode iw s.phase s.idx := by
  by_cases hp : s.phase = .hunt
  · rw [hp]
    rfl
  · rw [h.idx_eq hp]

theorem step_overlay (hs : step s = .next t) : ∃ r' : Stale, step (r.overlay s) = .next (r'.overlay t) ∧ r'.Unseen t := by
  rcases step_cases hs with ⟨ht, rfl⟩ | ⟨iw, rest, i, ht, hd, he⟩
  · exact ⟨r, step_idle ht, h.idle⟩
  · obtain ⟨r', hc, hr'⟩ := simulates (h.setTrace rest) (wellFormedAt_of_decode hd) (completes_of_exec he)
    have hstep := step_of_decode (s := r.overlay s) ht ((decode_overlay h iw).trans hd)
    exact ⟨r', hstep.trans (exec_of_completes hc), hr'⟩

end

/-- A run from any contents that are unseen stays the same run, up to contents that are unseen. -/
theorem runsTo_overlay {r : Stale} {s t : State} {k : Nat} (h : r.Unseen s) (hrun : runsTo k s t) :
    ∃ r' : Stale, runsTo k (r.overlay s) (r'.overlay t) ∧ r'.Unseen t := by
  induction k generalizing r s with
  | zero =>
    obtain rfl := runsTo_zero.1 hrun
    exact ⟨r, runsTo_zero.2 rfl, h⟩
  | succ k ih =>
    obtain ⟨u, hu, hrun⟩ := runsTo_succ.1 hrun
    obtain ⟨q, hq, hunseen⟩ := step_overlay h hu
    obtain ⟨r', hr', hunseen'⟩ := ih hunseen hrun
    exact ⟨r', runsTo_succ.2 ⟨_, hq, hr'⟩, hunseen'⟩

/-- What is unseen at the start is never reported and never read. -/
theorem runsTo_overlay_observes_same {r : Stale} {s t : State} {k : Nat} (h : r.Unseen s) (hrun : runsTo k s t) :
    ∃ t' : State, runsTo k (r.overlay s) t' ∧ t'.out = t.out ∧ t'.phase = t.phase ∧ t'.pktValid = t.pktValid ∧
      ∀ a, readPort t' a = readPort t a := by
  obtain ⟨r', hr', hunseen⟩ := runsTo_overlay h hrun
  exact ⟨r'.overlay t, hr', rfl, rfl, rfl, hunseen.readPort_overlay⟩

end Stale

/-- Settles O52: in `HUNT` the four registers are unseen (R35). -/
theorem staleRegistersAreUnobservable : Obligations.StaleRegistersAreUnobservable := by
  intro s t k idx len ckHi sum hp hrun
  have h : Stale.Unseen ⟨idx, len, sum, ckHi, s.buf⟩ s := .of_hunt hp fun _ _ _ => rfl
  exact Stale.runsTo_overlay_observes_same h hrun

/-- Settles O53: in `HUNT` with no packet valid the buffer is unseen (R34, U10). -/
theorem oldBufferContentsAreUnobservable : Obligations.OldBufferContentsAreUnobservable := by
  intro s t k buf hp hv hrun
  have h : Stale.Unseen ⟨s.idx, s.len, s.sum, s.ckHi, buf⟩ s := .of_hunt hp (by simp [hv])
  exact Stale.runsTo_overlay_observes_same h hrun

end Sys2Proof.Machine

/-! ### The window while hunting (R22, R33 I8) -/

namespace Sys2Proof.Machine

/-- The window is what these bytes leave in it when it was clear before them: the last four of the clear window's bytes
and theirs. -/
structure WindowHolds (w : Window) (n : BitVec 3) (bytes : List Byte) : Prop where
  count : n.toNat = min bytes.length 4
  latest : w.bytes = (Window.clear.bytes ++ bytes).drop bytes.length

theorem bytes_shiftIn (w : Window) (b : Byte) : (w.shiftIn b).bytes = (w.bytes ++ [b]).drop 1 := rfl

@[simp] theorem length_bytes (w : Window) : w.bytes.length = 4 := rfl

theorem windowHolds_clear : WindowHolds .clear 0 [] := ⟨rfl, rfl⟩

/-- The preamble's place is fixed by the bytes up to it (R101). -/
theorem preambleEndsAt_append {bytes more : List Byte} {j : Nat} (hj : j < bytes.length) :
    preambleEndsAt (bytes ++ more) j ↔ preambleEndsAt bytes j := by
  refine and_congr_right fun h3 => ?_
  have hlen : 4 ≤ (bytes.drop (j - 3)).length := by
    rw [List.length_drop]
    omega
  rw [List.drop_append_of_le_length (by omega), List.take_append_of_le_length hlen]

namespace WindowHolds

variable {w : Window} {n : BitVec 3} {bytes : List Byte}

theorem shiftIn (h : WindowHolds w n bytes) (b : Byte) : WindowHolds (w.shiftIn b) (nextWinN n) (bytes ++ [b]) where
  count := by
    have := h.count
    rw [nextWinN_toNat, List.length_append, List.length_singleton]
    omega
  latest := by
    rw [bytes_shiftIn, h.latest, ← List.drop_append_of_le_length (by simp), List.drop_drop, List.append_assoc,
      List.length_append, List.length_singleton]

/-- The window sequence is the last of the bytes, four at most (R22). -/
theorem windowSeq_eq (h : WindowHolds w n bytes) : windowSeq w n = bytes.drop (bytes.length - 4) := by
  have hcount := h.count
  have hskip : bytes.length + (4 - n.toNat) = Window.clear.bytes.length + (bytes.length - 4) := by
    rw [length_bytes]
    omega
  rw [windowSeq, h.latest, List.drop_drop, show Config.winLen = 4 from rfl, hskip, List.drop_length_add_append]

/-- The window matches exactly when a preamble ends at the last byte (R100, R101). -/
theorem preambleMatch_iff_endsAt (h : WindowHolds w n bytes) :
    preambleMatch w n = true ↔ preambleEndsAt bytes (bytes.length - 1) := by
  have hcount := h.count
  have hn : n = 4 ↔ 3 ≤ bytes.length - 1 := by
    rw [← BitVec.toNat_inj, show (4 : BitVec 3).toNat = 4 from rfl]
    omega
  have htake : (bytes.drop (bytes.length - 1 - 3)).take 4 = windowSeq w n := by
    rw [h.windowSeq_eq, show bytes.length - 1 - 3 = bytes.length - 4 by omega]
    exact List.take_of_length_le (by rw [List.length_drop]; omega)
  rw [preambleMatch, Bool.and_eq_true, beq_iff_eq, beq_iff_eq, preambleEndsAt, ← hn, htake]
  refine and_congr_right fun h4 => ?_
  rw [h4]
  rfl

end WindowHolds

/-- While hunting, a byte that completes no preamble goes into the window. -/
theorem step_of_no_preamble {s : State} {bytes : List Byte} {b : Byte} {rest : List InputWord} (hp : s.phase = .hunt)
    (hw : WindowHolds s.win s.winN bytes) (ht : s.trace = byteWord b :: rest)
    (hn : ¬preambleEndsAt (bytes ++ [b]) bytes.length) :
    step s = .next (report .quiet (setWindow (s.win.shiftIn b) (nextWinN s.winN) (setTrace rest s))) := by
  have hd : decode (byteWord b) s.phase s.idx = .ok (.synByte b) := by
    rw [hp, decode_byteWord]
    rfl
  have hmatch : preambleMatch (s.win.shiftIn b) (nextWinN s.winN) = false := by
    refine Bool.eq_false_iff.2 fun hm => hn ?_
    simpa using (hw.shiftIn b).preambleMatch_iff_endsAt.1 hm
  exact (step_of_decode ht hd).trans (exec_of_completes (.slide hmatch))

/-- Bytes in which no preamble is complete leave the block hunting, with them in the window. -/
theorem runsTo_of_no_preamble {s : State} {bytes : List Byte} {rest : List InputWord} (h : huntsAfresh s)
    (ht : s.trace = byteWords bytes ++ rest) (hn : ∀ j, j < bytes.length → ¬preambleEndsAt bytes j) :
    ∃ t, runsTo bytes.length s t ∧ t.phase = .hunt ∧ WindowHolds t.win t.winN bytes ∧ t.trace = rest := by
  induction bytes using List.reverseRecOn generalizing rest with
  | nil =>
    obtain ⟨hp, hwin, hwinN⟩ := h
    exact ⟨s, runsTo_zero.2 rfl, hp, by rw [hwin, hwinN]; exact windowHolds_clear, ht⟩
  | append_singleton bytes b ih =>
    have hbytes (j : Nat) (hj : j < bytes.length) : ¬preambleEndsAt bytes j := by
      rw [← preambleEndsAt_append (more := [b]) hj]
      exact hn j (Nat.lt_of_lt_of_le hj (by simp))
    obtain ⟨u, hu, hp, hw, htrace⟩ := ih (rest := byteWord b :: rest) (by simpa [byteWords] using ht) hbytes
    have hstep := step_of_no_preamble hp hw htrace (hn bytes.length (by simp))
    rw [List.length_append]
    exact ⟨_, runsTo_add.2 ⟨u, hu, runsTo_succ.2 ⟨_, hstep, runsTo_zero.2 rfl⟩⟩, hp, hw.shiftIn b, rfl⟩

/-- Settles O42: by induction on the bytes, the latest last. -/
theorem windowHoldsTheLatestBytes : Obligations.WindowHoldsTheLatestBytes := by
  intro s bytes rest h ht hn
  obtain ⟨t, hrun, hp, hw, -⟩ := runsTo_of_no_preamble h ht hn
  exact ⟨t, hrun, hp, hw.count, hw.windowSeq_eq⟩

end Sys2Proof.Machine

/-! ### The word of a decoded instruction -/

namespace Sys2Proof

theorem encode_of_decodeByte {b : Byte} {p : Phase} {idx : Count} {i : Instr} (h : decodeByte b p idx = .ok i) :
    encode i = byteWord b := by
  cases p with
  | hdr =>
    simp only [decodeByte] at h
    split_ifs at h <;> cases h <;> rfl
  | hunt | payload | ckHi | ckLo => cases h; rfl

/-- What a word decodes to encodes to the word with its ignored bits made canonical (R74, R80). -/
theorem encode_of_decode {iw : InputWord} {p : Phase} {idx : Count} {i : Instr} (h : decode iw p idx = .ok i) :
    encode i = canonicalWord iw := by
  rcases decode_cases iw p idx with ⟨hr, e⟩ | ⟨hr, hk, e⟩ | ⟨hr, hk, e⟩ | ⟨hr, hk, e⟩ | ⟨hr, hk, e⟩
  · cases e.symm.trans h
    simp [canonicalWord, hr, encode]
  · cases e.symm.trans h
    simp [canonicalWord, hr, hk, encode, reservedWord, kindReserved, kindByte]
  · rw [encode_of_decodeByte (e.symm.trans h)]
    simp [canonicalWord, hr, hk]
  · cases e.symm.trans h
    by_cases hp : p = .hunt <;> simp [canonicalWord, hr, hk, hp, encode, timeoutWord, kindTimeout, kindByte]
  · cases e.symm.trans h
    by_cases hp : p = .hunt <;> simp [canonicalWord, hr, hk, hp, encode, ioerrWord, kindIoerr, kindByte]

/-- A `BYTE` word ignores none of its bits (R74). -/
theorem canonicalWord_eq_byteWord {iw : InputWord} {b : Byte} : canonicalWord iw = byteWord b ↔ iw = byteWord b := by
  constructor
  · intro h
    unfold canonicalWord at h
    split_ifs at h with hr hk
    · exact absurd (congrArg iwRst h) (by simp [resetWord, byteWord])
    · have hdata : iwData iw = b := by simpa [byteWord] using congrArg iwData h
      rw [← mk_fields iw, hk, hdata, Bool.eq_false_iff.2 hr]
      rfl
    · exact absurd (by simpa [byteWord] using congrArg iwKind h) hk
  · rintro rfl
    simp [canonicalWord, byteWord]

/-- An instruction with the code of a `BYTE` event is decoded from that event's word only. -/
theorem eq_byteWord_of_decode {iw : InputWord} {p : Phase} {idx : Count} {i : Instr} {b : Byte}
    (h : decode iw p idx = .ok i) (hb : encode i = byteWord b) : iw = byteWord b :=
  canonicalWord_eq_byteWord.1 ((encode_of_decode h).symm.trans hb)

end Sys2Proof

/-! ### The write port, the read port and the packet by value (R52, R53, R54, R56) -/

namespace Sys2Proof.Machine

/-- The contents of `buf` after an instruction that completes (R52, R34, log 16). -/
def bufAfter (i : Instr) (s : State) : Memory :=
  match i with
  | .asmHdr b | .asmPay b => s.buf.write s.idx.toNat b
  | .asmLen b => s.buf.write 4 b
  | .reset => []
  | _ => s.buf

theorem buf_of_exec {i : Instr} {s t : State} (h : exec i s = .next t) : t.buf = bufAfter i s := by
  cases completes_of_exec h with
  | _ => rfl

/-- A byte stored at `idx`, which moves up by one: the write port of R52. -/
theorem stores_at_idx {s t : State} {b : Byte} (hi : s.idx.toNat < s.cfg.bufSize) (hidx : t.idx = s.idx + 1)
    (hbuf : t.buf = s.buf.write s.idx.toNat b) :
    s.idx.toNat < s.cfg.bufSize ∧ t.idx.toNat = s.idx.toNat + 1 ∧
      ∀ a, t.buf.cell? a = if a = s.idx.toNat then some b else s.buf.cell? a := by
  refine ⟨hi, ?_, fun a => ?_⟩
  · rw [hidx, toNat_add_one_of_lt_bufSize hi]
  · rw [hbuf, Memory.cell?_write]

/-- A length above `MAX_PAYLOAD` ends the frame (R122). -/
theorem phase_of_rejected_length {b : Byte} {s t : State} (h : exec (.asmLen b) s = .next t)
    (hb : s.cfg.maxPayload.toNat < b.toNat) : t.phase = .hunt := by
  cases completes_of_exec h with
  | lengthOutOfRange _ => rfl
  | noPayload => simp at hb
  | somePayload _ hmax => omega

/-- A frame starts with no byte consumed (R100). -/
theorem idx_of_synchronized {i : Instr} {s t : State} (h : exec i s = .next t) (ho : t.out = some .synchronized) :
    t.idx = 0 := by
  cases completes_of_exec h with
  | startFrame _ => rfl
  | _ => cases ho

/-- Settles O32: each instruction from what it makes of `buf`; those that store have a cell at `idx`. -/
theorem whoWritesTheBuffer : Obligations.WhoWritesTheBuffer := by
  intro s t iw i h hd he
  refine ⟨?_, idx_of_synchronized he⟩
  have hw := wellFormedAt_of_decode hd
  have hbuf := buf_of_exec he
  have hidx := (whoWritesTheCounterTheLengthAndTheHighByte i s t he).1
  cases i with
  | asmHdr b =>
    obtain ⟨hp, -⟩ : s.phase = .hdr ∧ s.idx < 4 := by simpa [Instr.wellFormedAt] using hw
    exact ⟨eq_byteWord_of_decode hd rfl, stores_at_idx (h.idx_lt_bufSize (.inl hp)) hidx hbuf⟩
  | asmLen b =>
    obtain ⟨hp, hi⟩ : s.phase = .hdr ∧ s.idx = 4 := by simpa [Instr.wellFormedAt] using hw
    have hidx' : t.idx = s.idx + 1 := hi ▸ hidx
    have hbuf' : t.buf = s.buf.write s.idx.toNat b := hi ▸ hbuf
    obtain ⟨hlt, hmove, hcells⟩ := stores_at_idx (h.idx_lt_bufSize (.inl hp)) hidx' hbuf'
    exact ⟨eq_byteWord_of_decode hd rfl, hlt, hmove, hcells, phase_of_rejected_length he⟩
  | asmPay b =>
    have hp : s.phase = .payload := by simpa [Instr.wellFormedAt] using hw
    exact ⟨eq_byteWord_of_decode hd rfl, stores_at_idx (h.idx_lt_bufSize (.inr hp)) hidx hbuf⟩
  | reset => exact fun a => congrArg (Memory.cell? · a) hbuf
  | _ => exact hbuf

/-- A readable packet has been written, and the read port gives its bytes (R34, R53). -/
theorem Inv.read_packet {s : State} (h : Inv s) (hv : s.pktValid = true) {a : Count}
    (ha : a.toNat < s.pktLen.toNat) :
    (s.buf.cell? a.toNat).isSome = true ∧ readPort s a = some (s.buf.byteAt a.toNat) := by
  obtain ⟨hlen, -, -, -, hwritten⟩ := h.packet hv
  exact ⟨hwritten _ (hlen ▸ ha), readPort_eq_some.2 ⟨hv, BitVec.lt_def.2 ha, rfl⟩⟩

/-- `PacketOk` comes from `CKS.LO` on the checksum of the frame only (R158). -/
theorem deliver_of_packetOk {i : Instr} {s t : State} {packet : List Byte} (h : exec i s = .next t)
    (ho : t.out = some (.packetOk packet)) :
    ∃ b, i = .cksLo b ∧ receivedChecksum s.ckHi b = s.sum ∧ packet = s.buf.prefixBytes s.idx.toNat ∧
      t = raiseAndHunt (.packetOk packet) (validatePacket s.idx s) := by
  cases completes_of_exec h with
  | deliver hck _ => cases ho; exact ⟨_, rfl, hck, rfl, rfl⟩
  | _ => cases ho

/-- Settles O37: the packet is what the invariants say of `buf` after the step, and of `sum` before it. -/
theorem deliveredPacketIsTheCheckedBuffer : Obligations.DeliveredPacketIsTheCheckedBuffer := by
  intro s t iw packet h hr ho
  obtain ⟨i, hd, he⟩ := react_eq_next.1 hr
  have hw := wellFormedAt_of_decode hd
  have ht : Inv t := inv_exec h hw he
  obtain ⟨b, rfl, hck, rfl, rfl⟩ := deliver_of_packetOk he ho
  have hp : s.phase = .ckLo := by simpa [Instr.wellFormedAt] using hw
  obtain ⟨hlen, hmax⟩ := ht.pktLen_of_pktValid rfl
  have hbytes {k : Nat} (hk : k < s.idx.toNat) := Memory.getElem?_prefixBytes s.buf hk
  have h4 : 4 < s.idx.toNat := by
    obtain ⟨-, hi⟩ := h.checksumPhases (.inr hp)
    omega
  refine ⟨Memory.length_prefixBytes _ _, hlen, hbytes h4, hmax, fun a ha => ?_, ?_⟩
  · rw [Memory.length_prefixBytes] at ha
    obtain ⟨hcell, hread⟩ := ht.read_packet rfl ha
    exact ⟨hbytes ha, hcell, hread.trans (hbytes ha).symm⟩
  · have hdata : iwData iw = b := by rw [eq_byteWord_of_decode (b := b) hd rfl, byteWord, iwData_mk]
    rw [← h.running (by simp [hp]), ← hck, receivedChecksum_toNat, hdata]

/-- Settles O35: the two sides of the gate. -/
theorem readPortIsGated : Obligations.ReadPortIsGated := by
  refine fun s raddr => ⟨fun ⟨hv, ha⟩ => readPort_eq_some.2 ⟨hv, BitVec.lt_def.2 ha, rfl⟩, fun hn => ?_⟩
  refine readPort_eq_none.2 ?_
  cases hv : s.pktValid with
  | false => exact .inl rfl
  | true => exact .inr (BitVec.not_lt.1 fun ha => hn ⟨hv, BitVec.lt_def.1 ha⟩)

theorem headerTap_of_valid {s : State} (hv : s.pktValid = true) (a : Nat) : headerTap s a = some (s.buf.byteAt a) :=
  if_pos hv

theorem headerTap_of_not_valid {s : State} (hv : s.pktValid = false) (a : Nat) : headerTap s a = none :=
  if_neg (by simp [hv])

theorem versionValid_eq_decide (b : Byte) : versionValid b = decide (b = 0x00 ∨ b = 0x01) := by
  rw [Bool.decide_or]
  rfl

/-- Within the header region a tap is a read (R56). -/
theorem Inv.headerTap_eq_readPort {s : State} (h : Inv s) {a : Count} (ha : a < 5) :
    headerTap s a.toNat = readPort s a := by
  cases hv : s.pktValid with
  | false => rw [headerTap_of_not_valid hv, readPort_eq_none.2 (.inl hv)]
  | true =>
    obtain ⟨hlen, -⟩ := h.pktLen_of_pktValid hv
    obtain ⟨-, hread⟩ := h.read_packet (a := a) hv (by bv_omega)
    rw [headerTap_of_valid hv, hread]

/-- Settles O36: the taps while a packet is readable, while none is, and against the read port. -/
theorem headerTapsAreTheFirstFiveBytes : Obligations.HeaderTapsAreTheFirstFiveBytes := by
  refine ⟨fun s _ hv => ?_, fun s _ hv => ?_, fun _ _ h ha => h.headerTap_eq_readPort ha⟩
  · have htap := headerTap_of_valid hv
    refine ⟨htap 0, htap 1, htap 2, htap 3, htap 4, ?_⟩
    rw [← versionValid_eq_decide]
    exact congrArg (Option.map versionValid) (htap 0)
  · have htap := headerTap_of_not_valid hv
    exact ⟨htap 0, htap 1, htap 2, htap 3, htap 4, congrArg (Option.map versionValid) (htap 0)⟩

end Sys2Proof.Machine

/-! ### Decode and encode agree (R74, R80) -/

namespace Sys2Proof

/-- Settles O2: the round trip of each instruction, and the word of what a word decodes to. -/
theorem decodeAndEncodeAgree : Obligations.DecodeAndEncodeAgree :=
  ⟨fun _ _ _ hw => Machine.decode_encode hw, fun _ _ _ _ hd => ⟨wellFormedAt_of_decode hd, encode_of_decode hd⟩⟩

end Sys2Proof

/-! ### Frames on the wire (R70, R86, R101, R132) -/

namespace Sys2Proof.Machine

/-- `k` steps lead from `s` to `t`, and each of them reports `None`. -/
structure RunsQuietly (k : Nat) (s t : State) : Prop where
  run : runsTo k s t
  quiet : quietFor k s

namespace RunsQuietly

variable {j k : Nat} {s t u : State}

theorem refl (s : State) : RunsQuietly 0 s s := ⟨runsTo_zero.2 rfl, fun _ h1 h0 => absurd (h1.trans h0) (by decide)⟩

theorem of_step (h : step s = .next t) (ho : t.out = some .quiet) : RunsQuietly 1 s t := by
  have hrun : runsTo 1 s t := runsTo_succ.2 ⟨t, h, runsTo_zero.2 rfl⟩
  refine ⟨hrun, fun j h1 hj => ?_⟩
  obtain rfl : j = 1 := Nat.le_antisymm hj h1
  exact ⟨t, hrun, ho⟩

theorem trans (h : RunsQuietly j s u) (h' : RunsQuietly k u t) : RunsQuietly (j + k) s t := by
  refine ⟨runsTo_add.2 ⟨u, h.run, h'.run⟩, fun i h1 hi => ?_⟩
  by_cases hij : i ≤ j
  · exact h.quiet i h1 hij
  · obtain ⟨v, hv, ho⟩ := h'.quiet (i - j) (by omega) (by omega)
    rw [show i = j + (i - j) by omega]
    exact ⟨v, runsTo_add.2 ⟨u, h.run, hv⟩, ho⟩

theorem cons (h : step s = .next u) (ho : u.out = some .quiet) (h' : RunsQuietly k u t) : RunsQuietly (k + 1) s t := by
  rw [Nat.add_comm]
  exact (of_step h ho).trans h'

end RunsQuietly

/-- No run writes the parameters (R30). -/
theorem runsTo_cfg {k : Nat} {s t : State} (h : runsTo k s t) : t.cfg = s.cfg := by
  induction k generalizing s with
  | zero => rw [runsTo_zero.1 h]
  | succ k ih =>
    obtain ⟨u, hs, hu⟩ := runsTo_succ.1 h
    rw [ih hu]
    rcases step_cases hs with ⟨-, rfl⟩ | ⟨_, _, _, -, -, he⟩
    · rfl
    · exact (exec_frame he).1

/-- One step on a `BYTE` word. -/
theorem step_of_byte {s t : State} {b : Byte} {rest : List InputWord} {i : Instr} (ht : s.trace = byteWord b :: rest)
    (hd : decodeByte b s.phase s.idx = .ok i) (hc : Completes (setTrace rest s) i t) : step s = .next t :=
  (step_of_decode ht ((decode_byteWord b _ _).trans hd)).trans (exec_of_completes hc)

/-! #### The preamble -/

theorem frameStart_startFrame (s : State) : FrameStart (startFrame s) := ⟨rfl, rfl, rfl, rfl, rfl, rfl⟩

/-- While hunting, the byte that completes a preamble starts a frame. -/
theorem step_of_preamble {s : State} {bytes : List Byte} {b : Byte} {rest : List InputWord} (hp : s.phase = .hunt)
    (hw : WindowHolds s.win s.winN bytes) (ht : s.trace = byteWord b :: rest)
    (he : preambleEndsAt (bytes ++ [b]) bytes.length) : step s = .next (startFrame (setTrace rest s)) := by
  refine step_of_byte ht (by rw [hp]; rfl) (.startFrame ((hw.shiftIn b).preambleMatch_iff_endsAt.2 ?_))
  simpa using he

/-- From a clear window, `PRE` starts a frame at its fourth step (R71, R101). -/
theorem runsTo_of_preamble {s : State} {rest : List InputWord} (h : huntsAfresh s)
    (ht : s.trace = byteWords Config.preamble ++ rest) :
    ∃ t, runsTo 4 s t ∧ t.out = some .synchronized ∧ FrameStart t ∧ t.trace = rest := by
  have hnone (j : Nat) (hj : j < 3) : ¬preambleEndsAt [0xFF, 0x00, 0xFF] j := fun he => absurd he.1 (by omega)
  obtain ⟨u, hu, hp, hw, htrace⟩ := runsTo_of_no_preamble (bytes := [0xFF, 0x00, 0xFF])
    (rest := byteWord 0xA5 :: rest) h ht hnone
  have hstep := step_of_preamble hp hw htrace ⟨Nat.le_refl 3, rfl⟩
  exact ⟨_, runsTo_add.2 ⟨u, hu, runsTo_succ.2 ⟨_, hstep, runsTo_zero.2 rfl⟩⟩, rfl, frameStart_startFrame _, rfl⟩

/-! #### The bytes of a frame -/

/-- In phase `p`, with the words `ws` still to come, the block has received exactly these bytes of the frame's body:
they are counted, stored from address 0 and summed, and no packet is readable (R23, R52, R151). -/
structure Receiving (p : Phase) (bytes : List Byte) (ws : List InputWord) (s : State) : Prop where
  phase : s.phase = p
  trace : s.trace = ws
  count : s.idx.toNat = bytes.length
  stored : s.buf.prefixBytes bytes.length = bytes
  sum : s.sum = checksum s.cfg.cksumSeed bytes
  noPacket : s.pktValid = false

theorem FrameStart.receiving {s : State} (h : FrameStart s) : Receiving .hdr [] s.trace s :=
  ⟨h.phase, rfl, by rw [h.idx]; rfl, rfl, h.sum, h.packet⟩

namespace Receiving

variable {p : Phase} {bytes : List Byte} {b : Byte} {ws rest : List InputWord} {s : State}

protected theorem setTrace (h : Receiving p bytes ws s) (rest : List InputWord) :
    Receiving p bytes rest (setTrace rest s) := ⟨h.phase, rfl, h.count, h.stored, h.sum, h.noPacket⟩

protected theorem setPhase (h : Receiving p bytes ws s) (q : Phase) : Receiving q bytes ws (setPhase q s) :=
  ⟨rfl, h.trace, h.count, h.stored, h.sum, h.noPacket⟩

protected theorem setLen (h : Receiving p bytes ws s) (b : Byte) : Receiving p bytes ws (setLen b s) :=
  ⟨h.phase, h.trace, h.count, h.stored, h.sum, h.noPacket⟩

protected theorem setCkHi (h : Receiving p bytes ws s) (b : Byte) : Receiving p bytes ws (setCkHi b s) :=
  ⟨h.phase, h.trace, h.count, h.stored, h.sum, h.noPacket⟩

protected theorem report (h : Receiving p bytes ws s) (o : StepOutcome) : Receiving p bytes ws (report o s) :=
  ⟨h.phase, h.trace, h.count, h.stored, h.sum, h.noPacket⟩

/-- A byte stored at `idx` is one more byte of the body (R52, R151). -/
theorem store (h : Receiving p bytes ws s) (hi : s.idx.toNat < s.cfg.bufSize) (b : Byte) :
    Receiving p (bytes ++ [b]) ws (storeBodyByte s.idx b s) where
  phase := h.phase
  trace := h.trace
  count := by rw [storeBodyByte_idx, toNat_add_one_of_lt_bufSize hi, h.count, List.length_append, List.length_singleton]
  stored := by
    rw [storeBodyByte_buf, h.count, List.length_append, List.length_singleton, Memory.prefixBytes_write_succ, h.stored]
  sum := by rw [storeBodyByte_sum, storeBodyByte_cfg, checksum_snoc, h.sum]
  noPacket := h.noPacket

/-- The header bytes before the length byte (R120). -/
theorem runsQuietly_header {hs : List Byte} (h : Receiving .hdr bytes (byteWords hs ++ rest) s)
    (hlen : bytes.length + hs.length ≤ 4) : ∃ t, RunsQuietly hs.length s t ∧ Receiving .hdr (bytes ++ hs) rest t := by
  induction hs generalizing bytes s with
  | nil => exact ⟨s, .refl s, by simpa [byteWords] using h⟩
  | cons b hs ih =>
    rw [List.length_cons] at hlen ⊢
    have hidx : s.idx.toNat < 4 := by
      have := h.count
      omega
    have hi : s.idx.toNat < s.cfg.bufSize := Nat.lt_of_lt_of_le (by omega) (five_le_bufSize s.cfg)
    have hd : decodeByte b s.phase s.idx = .ok (.asmHdr b) := by
      rw [h.phase]
      exact if_pos hidx
    have hstep := step_of_byte h.trace hd (.header hi)
    have hbyte := ((h.setTrace (byteWords hs ++ rest)).store hi b).report .quiet
    obtain ⟨t, hrun, ht⟩ := ih hbyte (by rw [List.length_append, List.length_singleton]; omega)
    exact ⟨t, .cons hstep rfl hrun, by simpa using ht⟩

/-- The length byte, with a length in range (R122). -/
theorem runsQuietly_lengthByte (h : Receiving .hdr bytes (byteWord b :: rest) s) (h4 : bytes.length = 4)
    (hmax : b.toNat ≤ s.cfg.maxPayload.toNat) :
    ∃ t, RunsQuietly 1 s t ∧ Receiving (if b = 0 then .ckHi else .payload) (bytes ++ [b]) rest t ∧ t.len = b := by
  have hidx : s.idx = 4 := BitVec.eq_of_toNat_eq (h.count.trans h4)
  have hi : s.idx.toNat < s.cfg.bufSize := hidx ▸ five_le_bufSize s.cfg
  have hd : decodeByte b s.phase s.idx = .ok (.asmLen b) := by
    rw [h.phase, hidx]
    rfl
  have hbyte := (h.setTrace rest).store hi b
  rw [setTrace_idx, hidx] at hbyte
  by_cases hb : b = 0
  · subst hb
    exact ⟨_, .of_step (step_of_byte h.trace hd .noPayload) rfl,
      ((hbyte.setLen 0).setPhase .ckHi).report .quiet, rfl⟩
  · have hpos : 0 < b.toNat := Nat.pos_of_ne_zero fun h0 => hb (BitVec.eq_of_toNat_eq h0)
    rw [if_neg hb]
    exact ⟨_, .of_step (step_of_byte h.trace hd (.somePayload hpos hmax)) rfl,
      ((hbyte.setLen b).setPhase .payload).report .quiet, rfl⟩

/-- The payload bytes, up to the last (R124). -/
theorem runsQuietly_payload {ps : List Byte} (h : Receiving .payload bytes (byteWords ps ++ rest) s) (hne : ps ≠ [])
    (hlen : bytes.length + ps.length = 5 + s.len.toNat) (hmax : s.len.toNat ≤ s.cfg.maxPayload.toNat) :
    ∃ t, RunsQuietly ps.length s t ∧ Receiving .ckHi (bytes ++ ps) rest t := by
  induction ps generalizing bytes s with
  | nil => exact absurd rfl hne
  | cons b ps ih =>
    rw [List.length_cons] at hlen ⊢
    have hcount := h.count
    have hi : s.idx.toNat < s.cfg.bufSize := by
      rw [bufSize_eq]
      omega
    have hnext := toNat_add_one_of_lt_bufSize hi
    have hd : decodeByte b s.phase s.idx = .ok (.asmPay b) := by
      rw [h.phase]
      rfl
    have hbyte := (h.setTrace (byteWords ps ++ rest)).store hi b
    by_cases hps : ps = []
    · subst hps
      have hend : (s.idx + 1).toNat = 5 + s.len.toNat := by
        rw [List.length_nil] at hlen
        omega
      exact ⟨_, .of_step (step_of_byte h.trace hd (.lastPayload hi hend)) rfl,
        (hbyte.setPhase .ckHi).report .quiet⟩
    · have hend : (s.idx + 1).toNat ≠ 5 + s.len.toNat := by
        have := List.length_pos_of_ne_nil hps
        omega
      have hstep := step_of_byte h.trace hd (.morePayload hi hend)
      have hlen' : (bytes ++ [b]).length + ps.length = 5 + s.len.toNat := by
        rw [List.length_append, List.length_singleton]
        omega
      obtain ⟨t, hrun, ht⟩ := ih (hbyte.report .quiet) hps hlen' hmax
      exact ⟨t, .cons hstep rfl hrun, by simpa using ht⟩

/-- The first checksum byte (R156). -/
theorem runsQuietly_highByte (h : Receiving .ckHi bytes (byteWord b :: rest) s) :
    ∃ t, RunsQuietly 1 s t ∧ Receiving .ckLo bytes rest t ∧ t.ckHi = b := by
  have hd : decodeByte b s.phase s.idx = .ok (.cksHi b) := by
    rw [h.phase]
    rfl
  exact ⟨_, .of_step (step_of_byte h.trace hd .highByte) rfl,
    (((h.setTrace rest).setCkHi b).setPhase .ckLo).report .quiet, rfl⟩

/-- The second checksum byte, when the two match (R158). -/
theorem step_deliver (h : Receiving .ckLo bytes (byteWord b :: rest) s) (hlen : bytes.length ≤ s.cfg.bufSize)
    (hck : receivedChecksum s.ckHi b = checksum s.cfg.cksumSeed bytes) :
    step s = .next (raiseAndHunt (.packetOk bytes) (validatePacket s.idx (setTrace rest s))) := by
  have hd : decodeByte b s.phase s.idx = .ok (.cksLo b) := by
    rw [h.phase]
    rfl
  have hpacket : s.buf.prefixBytes s.idx.toNat = bytes := by rw [h.count, h.stored]
  have hstep := step_of_byte h.trace hd (.deliver (hck.trans h.sum.symm) (h.count ▸ hlen))
  rwa [setTrace_buf, setTrace_idx, hpacket] at hstep

end Receiving

@[simp] theorem length_frameBody (v d src c : Byte) (payload : List Byte) :
    (frameBody v d src c payload).length = 5 + payload.length := by
  rw [Nat.add_comm]
  rfl

/-- From the start of a frame, its body with a length in range and one byte more are read quietly, and the block waits
for the second checksum byte. -/
theorem runsQuietly_frame {s : State} {v d src c hi : Byte} {payload : List Byte} {rest : List InputWord}
    (h : FrameStart s) (hmax : payload.length ≤ s.cfg.maxPayload.toNat)
    (ht : s.trace = byteWords (frameBody v d src c payload) ++ byteWord hi :: rest) :
    ∃ t, RunsQuietly (6 + payload.length) s t ∧ Receiving .ckLo (frameBody v d src c payload) rest t ∧ t.ckHi = hi := by
  have hn : (BitVec.ofNat 8 payload.length).toNat = payload.length :=
    Nat.mod_eq_of_lt (Nat.lt_of_le_of_lt hmax s.cfg.maxPayload.isLt)
  have hstart : Receiving .hdr [] (byteWords [v, d, src, c] ++
      byteWord (BitVec.ofNat 8 payload.length) :: (byteWords payload ++ byteWord hi :: rest)) s := ht ▸ h.receiving
  obtain ⟨s4, hrun4, hs4⟩ := hstart.runsQuietly_header (Nat.le_refl 4)
  obtain ⟨s5, hrun5, hs5, hlen5⟩ := hs4.runsQuietly_lengthByte rfl (by rwa [runsTo_cfg hrun4.run, hn])
  have hbody : ∃ u, RunsQuietly payload.length s5 u ∧
      Receiving .ckHi (frameBody v d src c payload) (byteWord hi :: rest) u := by
    by_cases hp : payload = []
    · subst hp
      exact ⟨s5, .refl s5, hs5⟩
    · have hne : BitVec.ofNat 8 payload.length ≠ 0 := fun h0 =>
        hp (List.length_eq_zero_iff.1 (hn ▸ congrArg BitVec.toNat h0))
      rw [if_neg hne] at hs5
      refine hs5.runsQuietly_payload hp (by rw [hlen5, hn]; rfl) ?_
      rwa [hlen5, hn, runsTo_cfg hrun5.run, runsTo_cfg hrun4.run]
  obtain ⟨u, hrunu, hu⟩ := hbody
  obtain ⟨t, hrunt, hwait, hhigh⟩ := hu.runsQuietly_highByte
  refine ⟨t, ?_, hwait, hhigh⟩
  have hrun : RunsQuietly (4 + 1 + payload.length + 1) s t := ((hrun4.trans hrun5).trans hrunu).trans hrunt
  rwa [show 6 + payload.length = 4 + 1 + payload.length + 1 by omega]

/-- The two bytes that are sent are the checksum that is received (R72, R152). -/
theorem receivedChecksum_bytes (x : Sum16) : receivedChecksum (x.extractLsb' 8 8) (x.extractLsb' 0 8) = x := by
  rw [receivedChecksum_eq_iff, BitVec.extractLsb'_toNat, BitVec.extractLsb'_toNat, Nat.shiftRight_eq_div_pow]
  have := x.isLt
  omega

/-- A good frame is delivered at the second byte of its checksum, and every step before that one is quiet (R132). -/
theorem goodFrame_delivered {s : State} {v d src c : Byte} {payload : List Byte} {rest : List InputWord}
    (h : FrameStart s) (hmax : payload.length ≤ s.cfg.maxPayload.toNat)
    (ht : s.trace = byteWords (goodFrame s.cfg.cksumSeed v d src c payload) ++ rest) :
    ∃ u lo, RunsQuietly (6 + payload.length) s u ∧
      Receiving .ckLo (frameBody v d src c payload) (byteWord lo :: rest) u ∧
      step u = .next
        (raiseAndHunt (.packetOk (frameBody v d src c payload)) (validatePacket u.idx (setTrace rest u))) := by
  have htrace : s.trace = byteWords (frameBody v d src c payload) ++
      byteWords (checksumBytes s.cfg.cksumSeed (frameBody v d src c payload)) ++ rest := by
    rw [ht, goodFrame, byteWords, List.map_append]
    rfl
  rw [List.append_assoc] at htrace
  obtain ⟨u, hrun, hu, hhigh⟩ := runsQuietly_frame h hmax htrace
  have hcfg := runsTo_cfg hrun.run
  refine ⟨u, _, hrun, hu, hu.step_deliver ?_ ?_⟩
  · rw [length_frameBody, hcfg, bufSize_eq]
    omega
  · rw [hhigh, hcfg, receivedChecksum_bytes]

/-- Settles O44: the preamble starts a frame, which is delivered. -/
theorem preambleAndFrameAreDelivered : Obligations.PreambleAndFrameAreDelivered := by
  intro s v d src c payload rest h hmax ht
  have htrace : s.trace = byteWords Config.preamble ++
      (byteWords (goodFrame s.cfg.cksumSeed v d src c payload) ++ rest) := by
    rw [ht]
    simp [assemble, TraceItem.words]
  obtain ⟨f, hf, hout, hstart, hft⟩ := runsTo_of_preamble h htrace
  rw [← runsTo_cfg hf] at hmax hft
  obtain ⟨u, lo, hu, -, hstep⟩ := goodFrame_delivered hstart hmax hft
  have hrun : runsTo (4 + (6 + payload.length + 1)) s _ :=
    runsTo_add.2 ⟨f, hf, runsTo_add.2 ⟨u, hu.run, runsTo_succ.2 ⟨_, hstep, runsTo_zero.2 rfl⟩⟩⟩
  rw [show 11 + payload.length = 4 + (6 + payload.length + 1) by omega]
  exact ⟨⟨f, hf, hout⟩, _, hrun, rfl, ⟨rfl, rfl, rfl⟩, rfl, rfl⟩

end Sys2Proof.Machine

/-! ### The layout of the input word (R74) -/

namespace Sys2Proof

theorem mkInputWord_toNat (rst : BitVec 1) (kind : BitVec 2) (data : Byte) :
    (mkInputWord rst kind data).toNat = 1024 * rst.toNat + 256 * kind.toNat + data.toNat := by
  have hdata := data.isLt
  have hkind := kind.isLt
  have hlow : (kind ++ data).toNat = 256 * kind.toNat + data.toNat := by
    rw [BitVec.toNat_append, ← Nat.shiftLeft_add_eq_or_of_lt hdata, Nat.shiftLeft_eq]
    omega
  refine (BitVec.toNat_append rst (kind ++ data)).trans ?_
  rw [← Nat.shiftLeft_add_eq_or_of_lt (kind ++ data).isLt, Nat.shiftLeft_eq, hlow]
  omega

/-- The fields of a word as a number. -/
theorem toNat_eq_fields (iw : InputWord) :
    iw.toNat = 1024 * (iwRst iw).toNat + 256 * (iwKind iw).toNat + (iwData iw).toNat := by
  have h := mkInputWord_toNat (BitVec.ofBool (iwRst iw)) (iwKind iw) (iwData iw)
  rwa [mk_fields, BitVec.toNat_ofBool] at h

theorem iwRst_eq_true_iff (iw : InputWord) : iwRst iw = true ↔ 1024 ≤ iw.toNat := by
  rw [toNat_eq_fields iw]
  have hdata := (iwData iw).isLt
  have hkind := (iwKind iw).isLt
  cases iwRst iw with
  | false => simp; omega
  | true => simp; omega

theorem iwKind_toNat (iw : InputWord) : (iwKind iw).toNat = iw.toNat / 256 % 4 := by
  rw [iwKind, BitVec.extractLsb'_toNat, Nat.shiftRight_eq_div_pow]

theorem iwData_toNat (iw : InputWord) : (iwData iw).toNat = iw.toNat % 256 := by
  rw [iwData, BitVec.extractLsb'_toNat, Nat.shiftRight_zero]

@[simp] theorem byteWord_toNat (b : Byte) : (byteWord b).toNat = b.toNat :=
  (mkInputWord_toNat 0 kindByte b).trans (by simp [kindByte])

theorem decode_of_rst {iw : InputWord} (h : iwRst iw = true) (p : Phase) (idx : Count) : decode iw p idx = .ok .reset :=
  if_pos h

/-- Dispatch does not see the bits that R74 says are ignored. -/
theorem decode_eq_of_ignored_bits {iw iw' : InputWord}
    (h : (iwRst iw = true ∧ iwRst iw' = true) ∨
      (iwRst iw = false ∧ iwRst iw' = false ∧ iwKind iw = iwKind iw' ∧ iwKind iw ≠ kindByte))
    (p : Phase) (idx : Count) : decode iw p idx = decode iw' p idx := by
  rcases h with ⟨hr, hr'⟩ | ⟨hr, hr', hk, hne⟩
  · rw [decode_of_rst hr, decode_of_rst hr']
  · rw [decode, decode, hr, hr', ← hk, if_neg hne, if_neg hne]

/-- Settles O3: the layout over numbers, and dispatch on the fields. -/
theorem inputWordLayoutAndIgnoredBits : Obligations.InputWordLayoutAndIgnoredBits := by
  refine ⟨mkInputWord_toNat, fun iw => ⟨iwRst_eq_true_iff iw, iwKind_toNat iw, iwData_toNat iw⟩, ⟨rfl, rfl, rfl, rfl⟩,
    byteWord_toNat, ⟨rfl, rfl, rfl⟩, fun iw iw' h => ⟨decode_eq_of_ignored_bits h, fun s => ?_⟩⟩
  rw [Machine.react, Machine.react, decode_eq_of_ignored_bits h]

/-! ### The dispatch function, row by row (R80) -/

/-- Settles O1: the twelve words by evaluation. -/
theorem sampleWordsDecode : Obligations.SampleWordsDecode := by
  unfold Obligations.SampleWordsDecode
  decide

theorem decode_reset_append (d : BitVec 10) (p : Phase) (idx : Count) : decode (1#1 ++ d) p idx = .ok .reset := by
  refine decode_of_rst ?_ p idx
  rw [iwRst_eq_true_iff]
  refine (?_ : 1024 ≤ _).trans_eq (BitVec.toNat_append 1#1 d).symm
  rw [← Nat.shiftLeft_add_eq_or_of_lt d.isLt, Nat.shiftLeft_eq]
  exact Nat.le_add_right 1024 _

/-- Without reset, dispatch is on the kind. -/
theorem decode_mk (kind : BitVec 2) (d : Byte) (p : Phase) (idx : Count) :
    decode (mkInputWord 0 kind d) p idx =
      if kind = kindReserved then .ok .evRsvd
      else if kind = kindByte then decodeByte d p idx
      else if kind = kindTimeout then .ok (if p = .hunt then .synTmo else .asmTmo)
      else .ok (if p = .hunt then .synErr else .asmErr) := by
  simp [decode]

/-- Settles O4: reset and the reserved kind whatever the data, then each kind by phase and index. -/
theorem dispatchSelectsByWordPhaseAndIndex : Obligations.DispatchSelectsByWordPhaseAndIndex := by
  refine ⟨decode_reset_append, fun d p idx => decode_mk _ d p idx, fun b idx => ?_, fun d idx => ?_⟩
  · have hb (p : Phase) : decode (mkInputWord 0 0b00 b) p idx = decodeByte b p idx := decode_byteWord b p idx
    exact ⟨hb _, fun h => (hb _).trans (if_pos h), fun h => (hb _).trans (h ▸ rfl), hb _, hb _, hb _⟩
  · have ht (p : Phase) : decode (mkInputWord 0 0b01 d) p idx = .ok (if p = .hunt then .synTmo else .asmTmo) :=
      decode_mk _ d p idx
    have he (p : Phase) : decode (mkInputWord 0 0b10 d) p idx = .ok (if p = .hunt then .synErr else .asmErr) :=
      decode_mk _ d p idx
    exact ⟨ht _, fun p h => (ht p).trans (congrArg _ (if_neg h)), he _, fun p h => (he p).trans (congrArg _ (if_neg h))⟩

end Sys2Proof

/-! ### Every admitted word completes, as the table says (R78, R81, R84) -/

namespace Sys2Proof.Machine

/-- Every instruction that completes reports an outcome (R12). -/
theorem out_of_exec {i : Instr} {s t : State} (h : exec i s = .next t) : ∃ o, t.out = some o := by
  obtain ⟨-, -, hout⟩ := exec_frame h
  exact Option.isSome_iff_exists.1 hout

/-- In a state that meets the invariants an admitted word selects an instruction that completes (R81). -/
theorem completes_of_admitted {s : State} {iw : InputWord} (h : Inv s) (hw : admitted iw = true) :
    ∃ i t o, decode iw s.phase s.idx = .ok i ∧ i ≠ .evRsvd ∧ Completes s i t ∧ t.out = some o := by
  obtain ⟨i, hd, hwf, hr⟩ := decode_of_admitted hw h.hdr
  obtain ⟨t, he, -⟩ := exec_completesSafely h hwf hr
  obtain ⟨o, ho⟩ := out_of_exec he
  exact ⟨i, t, o, hd, hr, completes_of_exec he, ho⟩

theorem react_of_completes {s t : State} {iw : InputWord} {i : Instr} (hd : decode iw s.phase s.idx = .ok i)
    (hc : Completes s i t) : react iw s = .next t :=
  react_eq_next.2 ⟨i, hd, exec_of_completes hc⟩

/-- Settles O5: the invariants bound `idx` in `HDR`, and admitted words complete. -/
theorem admittedWordsAlwaysComplete : Obligations.AdmittedWordsAlwaysComplete := by
  refine fun s h => ⟨h.hdr, fun iw hw => ?_⟩
  have hadm : admitted iw = true := by
    rw [admitted, Bool.or_eq_true, bne_iff_ne]
    exact hw.symm
  obtain ⟨i, t, o, hd, hr, hc, ho⟩ := completes_of_admitted h hadm
  exact ⟨i, t, o, hd, hr, exec_of_completes hc, react_of_completes hd hc, ho⟩

/-! #### The rows of the table -/

section

variable {s : State} {iw : InputWord} {b : Byte}

theorem eq_byteWord (hr : iwRst iw = false) (hk : iwKind iw = kindByte) : iw = byteWord (iwData iw) :=
  canonicalWord_eq_byteWord.1 (by simp [canonicalWord, hr, hk])

theorem kind_of_word (iw : InputWord) : iw.toNat / 256 = 4 * (iwRst iw).toNat + (iwKind iw).toNat := by
  have := (iwData iw).isLt
  have := toNat_eq_fields iw
  omega

theorem transition_of_reset (hr : iwRst iw = true) : transition s iw = some ⟨.hunt, 0, 0⟩ := by
  refine if_pos ?_
  rw [kind_of_word, hr]
  exact Nat.le_add_right 4 _

theorem transition_of_timeout (hr : iwRst iw = false) (hk : iwKind iw = kindTimeout) :
    transition s iw = some (if s.phase = .hunt then ⟨.hunt, 2, 0⟩
      else ⟨.hunt, 7, s.idx.toNat + if s.phase = .ckLo then 1 else 0⟩) := by
  have hkind : iw.toNat / 256 = 1 := by rw [kind_of_word, hr, hk]; rfl
  cases hp : s.phase <;> simp [transition, hkind, hp]

theorem transition_of_ioerr (hr : iwRst iw = false) (hk : iwKind iw = kindIoerr) :
    transition s iw = some ⟨.hunt, 3, 0⟩ := by
  have hkind : iw.toNat / 256 = 2 := by rw [kind_of_word, hr, hk]; rfl
  cases hp : s.phase <;> simp [transition, hkind, hp]

theorem byte_div_256 (b : Byte) : b.toNat / 256 = 0 := Nat.div_eq_of_lt b.isLt

theorem byte_mod_256 (b : Byte) : b.toNat % 256 = b.toNat := Nat.mod_eq_of_lt b.isLt

theorem transition_hunt_byte (hp : s.phase = .hunt) :
    transition s (byteWord b) =
      if preambleMatch (s.win.shiftIn b) (nextWinN s.winN) then some ⟨.hdr, 1, 0⟩ else some ⟨.hunt, 0, 0⟩ := by
  have hbytes : [s.win.b1.toNat, s.win.b2.toNat, s.win.b3.toNat, b.toNat] = [0xFF, 0x00, 0xFF, 0xA5] ↔
      [s.win.b1, s.win.b2, s.win.b3, b] = [0xFF, 0x00, 0xFF, 0xA5] := by
    simp [← BitVec.toNat_inj]
  simp only [transition, byteWord_toNat, byte_div_256, byte_mod_256, hp, hbytes, preambleMatch_shiftIn_iff]
  rfl

theorem transition_header_byte (hp : s.phase = .hdr) (hi : s.idx < 4) :
    transition s (byteWord b) = some ⟨.hdr, 0, 0⟩ := by
  have hi' : s.idx.toNat < 4 := hi
  simp [transition, byte_div_256, hp, hi']

theorem transition_length_byte (hp : s.phase = .hdr) (hi : s.idx = 4) :
    transition s (byteWord b) =
      if s.cfg.maxPayload.toNat < b.toNat then some ⟨.hunt, 6, b.toNat⟩
      else if b.toNat = 0 then some ⟨.ckHi, 0, 0⟩ else some ⟨.payload, 0, 0⟩ := by
  simp [transition, byte_div_256, byte_mod_256, hp, hi]

theorem transition_payload_byte (hp : s.phase = .payload) :
    transition s (byteWord b) =
      if s.idx.toNat + 1 < 5 + s.len.toNat then some ⟨.payload, 0, 0⟩ else some ⟨.ckHi, 0, 0⟩ := by
  simp [transition, byte_div_256, hp]

theorem transition_high_byte (hp : s.phase = .ckHi) : transition s (byteWord b) = some ⟨.ckLo, 0, 0⟩ := by
  simp [transition, byte_div_256, hp]

theorem transition_low_byte (hp : s.phase = .ckLo) :
    transition s (byteWord b) =
      if receivedChecksum s.ckHi b = s.sum then some ⟨.hunt, 4, 5 + s.len.toNat⟩ else some ⟨.hunt, 5, 0⟩ := by
  simp [transition, byte_div_256, byte_mod_256, hp, receivedChecksum_eq_iff]

end

/-- The bytes consumed within a frame, without wrapping (R126). -/
theorem Inv.bytesConsumed_toNat {s : State} (h : Inv s) :
    (bytesConsumed s).toNat = s.idx.toNat + if s.phase = .ckLo then 1 else 0 := by
  have := h.counter
  have := bufSize_le s.cfg
  rw [bytesConsumed, BitVec.toNat_add]
  split
  · rw [show (1 : Count).toNat = 1 from rfl]
    omega
  · rw [show (0 : Count).toNat = 0 from rfl]
    omega

/-- A delivered packet's length is shown as the `pkt_len` it was delivered with (R78). -/
theorem outInfo_prefixBytes (m : Memory) (n : Count) : outInfo (.packetOk (m.prefixBytes n.toNat)) = n := by
  simp [outInfo]

/-- The row of the table that a step to `t` with this outcome is. -/
def TableRow.ofStep (t : State) (o : StepOutcome) : TableRow :=
  { next := t.phase, kind := (outKind o).toNat, info := (outInfo o).toNat }

/-- The step to `t` follows the table on the word `iw`. -/
def followsTable (iw : InputWord) (s t : State) : Prop :=
  ∃ o, t.out = some o ∧ transition s iw = some (TableRow.ofStep t o)

section

variable {s t : State} {b : Byte}

theorem followsTable_header (hp : s.phase = .hdr) (hi : s.idx ≤ 4) {i : Instr} (hd : decodeByte b .hdr s.idx = .ok i)
    (hc : Completes s i t) : followsTable (byteWord b) s t := by
  by_cases hlt : s.idx < 4
  · cases hd.symm.trans (if_pos hlt)
    cases hc with
    | header _ => exact ⟨_, rfl, by rw [transition_header_byte hp hlt, ← hp]; rfl⟩
  · have h4 : s.idx = 4 := BitVec.le_antisymm hi (BitVec.not_lt.1 hlt)
    cases hd.symm.trans ((if_neg hlt).trans (if_pos h4))
    have hrow := transition_length_byte (b := b) hp h4
    cases hc with
    | lengthOutOfRange hb => exact ⟨_, rfl, hrow.trans (by rw [if_pos hb]; simp [TableRow.ofStep, outKind, outInfo])⟩
    | noPayload => exact ⟨_, rfl, hrow⟩
    | somePayload hpos hmax =>
      exact ⟨_, rfl, hrow.trans ((if_neg (Nat.not_lt.2 hmax)).trans (if_neg (Nat.ne_of_gt hpos)))⟩

variable (h : Inv s)
include h

theorem followsTable_payload (hp : s.phase = .payload) (hc : Completes s (.asmPay b) t) :
    followsTable (byteWord b) s t := by
  obtain ⟨-, -, -, hi⟩ := h.payload hp
  have hrow := transition_payload_byte (b := b) hp
  cases hc with
  | lastPayload hlt hend =>
    rw [toNat_add_one_of_lt_bufSize hlt] at hend
    exact ⟨_, rfl, hrow.trans (if_neg (by omega))⟩
  | morePayload hlt hend =>
    rw [toNat_add_one_of_lt_bufSize hlt] at hend
    exact ⟨_, rfl, (hrow.trans (if_pos (by omega))).trans (by rw [← hp]; rfl)⟩

theorem followsTable_low (hp : s.phase = .ckLo) (hc : Completes s (.cksLo b) t) : followsTable (byteWord b) s t := by
  obtain ⟨-, hi⟩ := h.checksumPhases (.inr hp)
  have hrow := transition_low_byte (b := b) hp
  cases hc with
  | deliver hck _ =>
    refine ⟨_, rfl, (hrow.trans (if_pos hck)).trans ?_⟩
    rw [TableRow.ofStep, outInfo_prefixBytes, hi]
    rfl
  | discard hck => exact ⟨_, rfl, hrow.trans (if_neg hck)⟩

theorem followsTable_byte {i : Instr} (hd : decodeByte b s.phase s.idx = .ok i) (hc : Completes s i t) :
    followsTable (byteWord b) s t := by
  cases hp : s.phase with
  | hunt =>
    rw [hp] at hd
    cases hd
    have hrow := transition_hunt_byte (b := b) hp
    cases hc with
    | startFrame hm => exact ⟨_, rfl, hrow.trans (if_pos hm)⟩
    | slide hm => exact ⟨_, rfl, by rw [hrow, hm, ← hp]; rfl⟩
  | hdr => exact followsTable_header hp (h.hdr hp) (hp ▸ hd) hc
  | payload =>
    rw [hp] at hd
    cases hd
    exact followsTable_payload h hp hc
  | ckHi =>
    rw [hp] at hd
    cases hd
    cases hc
    exact ⟨_, rfl, transition_high_byte hp⟩
  | ckLo =>
    rw [hp] at hd
    cases hd
    exact followsTable_low h hp hc

/-- A step on an admitted word follows the table (R84). -/
theorem followsTable_of_completes {iw : InputWord} (hw : admitted iw = true) {i : Instr}
    (hd : decode iw s.phase s.idx = .ok i) (hc : Completes s i t) : followsTable iw s t := by
  rcases decode_cases iw s.phase s.idx with ⟨hr, e⟩ | ⟨hr, hk, -⟩ | ⟨hr, hk, e⟩ | ⟨hr, hk, e⟩ | ⟨hr, hk, e⟩
  · cases e.symm.trans hd
    cases hc
    exact ⟨_, rfl, transition_of_reset hr⟩
  · simp [admitted, hr, hk] at hw
  · rw [eq_byteWord hr hk]
    exact followsTable_byte h (e.symm.trans hd) hc
  · have hrow := transition_of_timeout (s := s) hr hk
    by_cases hp : s.phase = .hunt
    · rw [if_pos hp] at e hrow
      cases e.symm.trans hd
      cases hc
      exact ⟨_, rfl, hrow⟩
    · rw [if_neg hp] at e hrow
      cases e.symm.trans hd
      cases hc
      rw [← h.bytesConsumed_toNat] at hrow
      exact ⟨_, rfl, hrow⟩
  · have hrow := transition_of_ioerr (s := s) hr hk
    by_cases hp : s.phase = .hunt
    · rw [if_pos hp] at e
      cases e.symm.trans hd
      cases hc
      exact ⟨_, rfl, hrow⟩
    · rw [if_neg hp] at e
      cases e.symm.trans hd
      cases hc
      exact ⟨_, rfl, hrow⟩

end

/-- Settles O26: every admitted word completes, and by its kind and the phase follows the table. -/
theorem everyStepFollowsTheTransitionTable : Obligations.EveryStepFollowsTheTransitionTable := by
  intro s iw h hw
  obtain ⟨i, t, -, hd, -, hc, -⟩ := completes_of_admitted h hw
  obtain ⟨o, ho, hrow⟩ := followsTable_of_completes h hw hd hc
  exact ⟨t, o, react_of_completes hd hc, ho, hrow⟩

/-- `ShortRead` comes from a timeout within a frame only, with the bytes consumed (R126). -/
theorem got_of_shortRead {i : Instr} {s t : State} {got : Count} (h : exec i s = .next t)
    (ho : t.out = some (.shortRead got)) : got = bytesConsumed s := by
  cases completes_of_exec h with
  | shortRead => cases ho; rfl
  | _ => cases ho

/-- Settles O27: the codes by definition, the length of a delivered packet and the bytes consumed by the invariants. -/
theorem outcomeWordCodes : Obligations.OutcomeWordCodes := by
  refine ⟨⟨rfl, rfl⟩, ⟨rfl, rfl⟩, ⟨rfl, rfl⟩, ⟨rfl, rfl⟩, fun _ => rfl, ⟨rfl, rfl⟩, fun n => ⟨rfl, zext9_toNat n⟩,
    fun _ => ⟨rfl, rfl⟩, fun s t iw h hr => ⟨fun p ho => ?_, fun got ho => ?_⟩⟩
  · obtain ⟨hlen, hpkt, hcount, -, hbytes, -⟩ := deliveredPacketIsTheCheckedBuffer s t iw p h hr ho
    have := (t.buf.byteAt 4).isLt
    refine ⟨?_, by omega, by omega, _, hcount, hpkt, fun a ha => ?_⟩
    · rw [outInfo, hlen, BitVec.ofNat_toNat, BitVec.setWidth_eq]
    · obtain ⟨-, -, hread⟩ := hbytes a ha
      exact hread
  · obtain ⟨i, -, he⟩ := react_eq_next.1 hr
    have hgot : got.toNat = s.idx.toNat + if s.phase = .ckLo then 1 else 0 := by
      rw [got_of_shortRead he ho, h.bytesConsumed_toNat]
    refine ⟨?_, hgot⟩
    have hcounter := h.counter
    rw [bufSize_eq] at hcounter
    split at hgot <;> omega

/-! ### The ports (R76) -/

theorem clockEdge_idle {p : InPins} (hr : p.rst = false) (hv : p.evValid = false) (s : State) :
    clockEdge p s = .next (idle s) := by
  have hword : p.inputWord? = none := if_neg (by simp [hr, hv])
  rw [clockEdge, hword]

theorem clockEdge_of_event {p : InPins} (hp : p.rst = true ∨ p.evValid = true) (s : State) :
    clockEdge p s = react (mkInputWord (BitVec.ofBool p.rst) p.evKind p.evData) s := by
  have hword : p.inputWord? = some (mkInputWord (BitVec.ofBool p.rst) p.evKind p.evData) :=
    if_pos (by rwa [Bool.or_eq_true])
  rw [clockEdge, hword]

/-- Settles O54: the word an edge drives, and the outcome that every completed reaction reports. -/
theorem portsDriveAndShowTheStep : Obligations.PortsDriveAndShowTheStep := by
  refine ⟨fun p s hr hv => ⟨clockEdge_idle hr hv s, fun _ => rfl⟩, fun p s hp => clockEdge_of_event hp s,
    fun p s t a hp ht => ?_⟩
  rw [clockEdge_of_event hp] at ht
  obtain ⟨i, -, he⟩ := react_eq_next.1 ht
  obtain ⟨o, ho⟩ := out_of_exec he
  exact ⟨o, ho, congrArg Option.isSome ho, congrArg (Option.map outKind) ho, congrArg (Option.map outInfo) ho, rfl, rfl,
    rfl, rfl⟩

end Sys2Proof.Machine

/-! ### The first preamble of a run of bytes (R101) -/

namespace Sys2Proof.Machine

/-- A run extended by one more step. -/
theorem runsTo_snoc {k : Nat} {s u t : State} (hu : runsTo k s u) (hstep : step u = .next t) : runsTo (k + 1) s t :=
  runsTo_add.2 ⟨u, hu, runsTo_succ.2 ⟨t, hstep, runsTo_zero.2 rfl⟩⟩

section

variable {s : State} {bytes : List Byte} {rest : List InputWord} {k : Nat}

/-- A preamble that ends at index `k` lies within the bytes. -/
theorem lt_length_of_preambleEndsAt (h : preambleEndsAt bytes k) : k < bytes.length := by
  obtain ⟨h3, hpre⟩ := h
  have hlen := congrArg List.length hpre
  rw [List.length_take, List.length_drop, show Config.preamble.length = 4 from rfl] at hlen
  omega

/-- Whether a preamble ends at an index is decided by the bytes up to it. -/
theorem preambleEndsAt_take {j : Nat} (hj : j < k) (hk : k ≤ bytes.length) :
    preambleEndsAt (bytes.take k) j ↔ preambleEndsAt bytes j := by
  conv_rhs => rw [← List.take_append_drop k bytes]
  exact (preambleEndsAt_append (by rw [List.length_take]; omega)).symm

/-- While no preamble has ended, the block still hunts: the bytes consumed are in the window, the next byte is next. -/
theorem runsTo_before_preamble (h : huntsAfresh s) (ht : s.trace = byteWords bytes ++ rest) (hk : k < bytes.length)
    (hn : ∀ j, j < k → ¬preambleEndsAt bytes j) :
    ∃ u, runsTo k s u ∧ u.phase = .hunt ∧ WindowHolds u.win u.winN (bytes.take k) ∧
      u.trace = byteWord bytes[k] :: (byteWords (bytes.drop (k + 1)) ++ rest) := by
  have hlen : (bytes.take k).length = k := List.length_take_of_le (Nat.le_of_lt hk)
  have hsplit : s.trace =
      byteWords (bytes.take k) ++ (byteWord bytes[k] :: (byteWords (bytes.drop (k + 1)) ++ rest)) := by
    conv_lhs => rw [ht, ← List.take_append_drop k bytes, List.drop_eq_getElem_cons hk]
    simp only [byteWords, List.map_append, List.map_cons, List.append_assoc, List.cons_append]
  obtain ⟨u, hu, hrest⟩ := runsTo_of_no_preamble h hsplit fun j hj => by
    rw [hlen] at hj
    rw [preambleEndsAt_take hj (Nat.le_of_lt hk)]
    exact hn j hj
  exact ⟨u, hlen ▸ hu, hrest⟩

/-- The byte at index `k`, put after those before it, completes a preamble exactly when one ends at `k`. -/
theorem preambleEndsAt_take_concat (hk : k < bytes.length) :
    preambleEndsAt (bytes.take k ++ [bytes[k]]) (bytes.take k).length ↔ preambleEndsAt bytes k := by
  rw [List.take_append_getElem hk, List.length_take_of_le (Nat.le_of_lt hk)]
  exact preambleEndsAt_take (Nat.lt_succ_self k) hk

/-- Until the first preamble ends, every step reports `None`. -/
theorem quietFor_before_preamble (h : huntsAfresh s) (ht : s.trace = byteWords bytes ++ rest) (hk : k ≤ bytes.length)
    (hn : ∀ j, j < k → ¬preambleEndsAt bytes j) : quietFor k s := by
  rintro (_ | j) h1 hjk
  · exact absurd h1 (by decide)
  · have hj : j < bytes.length := Nat.lt_of_lt_of_le hjk hk
    obtain ⟨u, hu, hp, hw, htrace⟩ := runsTo_before_preamble h ht hj fun i hi => hn i (hi.trans hjk)
    have hstep := step_of_no_preamble hp hw htrace ((preambleEndsAt_take_concat hj).not.2 (hn j hjk))
    exact ⟨_, runsTo_snoc hu hstep, rfl⟩

end

/-- Settles O41: the run up to index `k` is quiet and leaves the preamble's first three bytes in the window; the byte at
`k` completes it. -/
theorem synchronizesAtTheFirstPreamble : Obligations.SynchronizesAtTheFirstPreamble := by
  intro s bytes rest k h ht hend hfirst
  have hk := lt_length_of_preambleEndsAt hend
  refine ⟨quietFor_before_preamble h ht (Nat.le_of_lt hk) hfirst, ?_⟩
  obtain ⟨u, hu, hp, hw, htrace⟩ := runsTo_before_preamble h ht hk hfirst
  have hstep := step_of_preamble hp hw htrace ((preambleEndsAt_take_concat hk).2 hend)
  exact ⟨_, runsTo_snoc hu hstep, rfl, frameStart_startFrame _, rfl⟩

end Sys2Proof.Machine

/-! ### The window within a frame and after it (R105, R106) -/

namespace Sys2Proof.Machine

/-- Only `SYN.BYTE` moves the window: any other instruction clears it, or reports `None` and leaves it (R105). -/
theorem window_of_exec {i : Instr} {s t : State} (h : exec i s = .next t) :
    windowClear t ∨ t.out = some .quiet ∧ ((∃ b, i = .synByte b) ∨ t.win = s.win ∧ t.winN = s.winN) := by
  cases completes_of_exec h with
  | startFrame _ | busIdle | huntFailure | lengthOutOfRange _ | shortRead | frameFailure | deliver _ _ | discard _ |
      reset => exact .inl ⟨rfl, rfl⟩
  | slide _ => exact .inr ⟨rfl, .inl ⟨_, rfl⟩⟩
  | header _ | noPayload | somePayload _ _ | lastPayload _ _ | morePayload _ _ | highByte =>
    exact .inr ⟨rfl, .inr ⟨rfl, rfl⟩⟩

/-- `SYN.BYTE` is selected in `HUNT` only (R80). -/
theorem hunt_of_decode_synByte {iw : InputWord} {p : Phase} {idx : Count} {b : Byte}
    (h : decode iw p idx = .ok (.synByte b)) : p = .hunt :=
  beq_iff_eq.1 (wellFormedAt_of_decode h)

/-- A step within a frame leaves the window clear (R105, R33 I5). -/
theorem Inv.windowClear_of_react {s t : State} {iw : InputWord} (h : Inv s) (hp : s.phase ≠ .hunt)
    (ht : react iw s = .next t) : windowClear t := by
  obtain ⟨i, hd, he⟩ := react_eq_next.1 ht
  rcases window_of_exec he with hclear | ⟨-, ⟨b, rfl⟩ | ⟨hwin, hwinN⟩⟩
  · exact hclear
  · exact absurd (hunt_of_decode_synByte hd) hp
  · obtain ⟨hclear, hzero⟩ := h.assembling hp
    exact ⟨hwin.trans hclear, hwinN.trans hzero⟩

/-- Settles O29: `RESET` clears the window, so does what reports an outcome, and a frame's bytes do not enter it. -/
theorem windowIsClearWheneverHuntingStarts : Obligations.WindowIsClearWheneverHuntingStarts := by
  refine ⟨⟨rfl, rfl⟩, fun s t iw h ht => ⟨fun hr => ?_, fun hout => ?_, fun hp => h.windowClear_of_react hp ht⟩⟩
  · cases (react_of_decode (decode_of_rst hr s.phase s.idx)).symm.trans ht
    exact ⟨rfl, rfl⟩
  · obtain ⟨i, -, he⟩ := react_eq_next.1 ht
    exact (window_of_exec he).resolve_right fun hquiet => hout hquiet.1

/-- Settles O40: what `SYN.BYTE` does cannot happen within a frame, and only a counted byte leaves `HDR` as the phase. -/
theorem noMatchInsideAFrame : Obligations.NoMatchInsideAFrame := by
  intro s t iw hp ht
  obtain ⟨i, hd, he⟩ := react_eq_next.1 ht
  cases completes_of_exec he with
  | startFrame _ | slide _ => exact absurd (hunt_of_decode_synByte hd) hp
  | header _ | morePayload _ _ => exact ⟨nofun, fun hhdr => ⟨hhdr, rfl⟩⟩
  | _ => exact ⟨nofun, nofun⟩

end Sys2Proof.Machine

/-! ### The effect and the frame of the operations that store nothing (R100, R102, R104, R126, R128, R156, R158, R170) -/

namespace Sys2Proof.Machine

/-- Settles O7: the match of R100 byte by byte, and the two ways in which `SYN.BYTE` completes. -/
theorem synByteSlidesTheWindowOrStartsAFrame : Obligations.SynByteSlidesTheWindowOrStartsAFrame := by
  intro s b
  have hiff : preambleMatch (s.win.shiftIn b) (nextWinN s.winN) = true ↔
      min (s.winN.toNat + 1) 4 = 4 ∧ s.win.b1 = 0xFF ∧ s.win.b2 = 0x00 ∧ s.win.b3 = 0xFF ∧ b = 0xA5 := by
    have hfull : 3 ≤ s.winN.toNat ↔ min (s.winN.toNat + 1) 4 = 4 := by omega
    rw [preambleMatch_shiftIn_iff, hfull]
    simp
  refine ⟨fun hp => ?_, fun hm => exec_of_completes (.startFrame (hiff.2 hm)), fun hm => ?_⟩
  · rw [hp]
    exact decode_byteWord b .hunt s.idx
  · exact exec_of_completes (.slide (Bool.eq_false_iff.2 (hiff.not.2 hm)))

/-- Settles O8: the dispatch of a timeout in `HUNT`, and the one way in which `SYN.TMO` completes. -/
theorem synTmoReportsBusIdle : Obligations.SynTmoReportsBusIdle := by
  refine fun s d => ⟨fun hp => ?_, exec_of_completes .busIdle⟩
  rw [hp]
  exact decode_mk _ d .hunt s.idx

/-- Settles O9: the dispatch of a failure in `HUNT`, and the one way in which `SYN.ERR` completes. -/
theorem synErrReportsIoFailure : Obligations.SynErrReportsIoFailure := by
  refine fun s d => ⟨fun hp => ?_, exec_of_completes .huntFailure⟩
  rw [hp]
  exact decode_mk _ d .hunt s.idx

/-- Settles O20: `buf` by what each instruction makes of it, the registers by the ways in which it can complete. -/
theorem frameOfTheOperationsThatStoreNothing : Obligations.FrameOfTheOperationsThatStoreNothing := by
  intro i s t h hstores
  obtain ⟨hcfg, htrace, -⟩ := exec_frame h
  have hbuf := buf_of_exec h
  refine ⟨?_, hcfg, htrace, ?_⟩
  · cases i with
    | asmHdr _ | asmLen _ | asmPay _ => exact hstores.elim
    | reset => exact fun a => congrArg (Memory.cell? · a) hbuf
    | _ => exact fun a => ⟨congrArg (Memory.cell? · a) hbuf, congrArg (Memory.byteAt · a) hbuf⟩
  · cases completes_of_exec h with
    | header _ | lengthOutOfRange _ | noPayload | somePayload _ _ | lastPayload _ _ | morePayload _ _ =>
      exact hstores.elim
    | startFrame _ => exact ⟨rfl, rfl, rfl, fun hout => absurd rfl hout⟩
    | slide _ => exact ⟨rfl, rfl, rfl, fun _ => ⟨rfl, rfl, rfl, rfl⟩⟩
    | highByte => exact ⟨rfl, rfl, rfl, rfl, rfl, rfl, rfl⟩
    | deliver _ _ => exact ⟨rfl, rfl, rfl, rfl, nofun⟩
    | discard _ => exact ⟨rfl, rfl, rfl, rfl, fun _ => ⟨rfl, rfl⟩⟩
    | reset => trivial
    | busIdle | huntFailure | shortRead | frameFailure => exact ⟨rfl, rfl, rfl, rfl, rfl, rfl⟩

end Sys2Proof.Machine

/-! ### The frame as it is delivered (R53, R132) -/

namespace Sys2Proof.Machine

/-- A readable packet is read like a list: inside its length a byte of it, none beyond (R53, log 10). -/
theorem readPort_eq_getElem? {s : State} (hv : s.pktValid = true) (a : Count) :
    readPort s a = (s.buf.prefixBytes s.pktLen.toNat)[a.toNat]? := by
  by_cases ha : a < s.pktLen
  · rw [readPort_eq_some.2 ⟨hv, ha, rfl⟩, Memory.getElem?_prefixBytes _ (BitVec.lt_def.1 ha)]
  · have hle : s.pktLen ≤ a := BitVec.not_lt.1 ha
    rw [readPort_eq_none.2 (.inr hle), List.getElem?_eq_none]
    rw [Memory.length_prefixBytes]
    exact BitVec.le_def.1 hle

/-- Once what has been received is delivered, the read port gives just those bytes (R53, R158). -/
theorem Receiving.readPort_delivered {p : Phase} {bytes : List Byte} {ws : List InputWord} {s : State}
    (h : Receiving p bytes ws s) (o : StepOutcome) (a : Count) :
    readPort (raiseAndHunt o (validatePacket s.idx s)) a = bytes[a.toNat]? := by
  rw [readPort_eq_getElem? rfl, raiseAndHunt_buf, validatePacket_buf, raiseAndHunt_pktLen, validatePacket_pktLen,
    h.count, h.stored]

/-- Settles O43: the run up to the last byte is quiet, and that byte delivers the body that has been received. -/
theorem goodFrameIsDeliveredExactly : Obligations.GoodFrameIsDeliveredExactly := by
  intro s v d src c payload rest h hmax ht
  obtain ⟨u, lo, hquiet, hu, hstep⟩ := goodFrame_delivered h hmax ht
  have hrun : runsTo (6 + payload.length + 1) s _ := runsTo_snoc hquiet.run hstep
  refine ⟨hquiet.quiet, _, ?_, rfl, ⟨rfl, rfl, rfl⟩, rfl, hu.count.trans (length_frameBody ..), rfl,
    (hu.setTrace rest).readPort_delivered _⟩
  rwa [show 7 + payload.length = 6 + payload.length + 1 by omega]

end Sys2Proof.Machine

/-! ### The effect and the frame of the assembler's operations (R120, R122, R124, R126, R128) -/

namespace Sys2Proof.Machine

theorem Memory.write_leaves_others (m : Memory) (address : Nat) (b : Byte) :
    ∀ a, a ≠ address → (m.write address b).cell? a = m.cell? a ∧ (m.write address b).byteAt a = m.byteAt a :=
  fun _ ha => ⟨Memory.cell?_write_other m b ha, Memory.byteAt_write_other m b ha⟩

/-- Settles O21: what the one written cell leaves of `buf`, and the registers of each way in which a store completes. -/
theorem frameOfTheOperationsThatStore : Obligations.FrameOfTheOperationsThatStore := by
  intro i s t address h haddress
  cases completes_of_exec h with
  | header _ =>
    subst haddress
    exact ⟨s.buf.write_leaves_others _ _, rfl, rfl, rfl, rfl, rfl, rfl, rfl, rfl, rfl⟩
  | lengthOutOfRange hb =>
    subst haddress
    exact ⟨s.buf.write_leaves_others _ _, rfl, rfl, rfl, rfl, rfl, fun hmax => absurd hb (Nat.not_lt.2 hmax)⟩
  | noPayload | somePayload _ _ =>
    subst haddress
    exact ⟨s.buf.write_leaves_others _ _, rfl, rfl, rfl, rfl, rfl, fun _ => ⟨rfl, rfl⟩⟩
  | lastPayload _ _ | morePayload _ _ =>
    subst haddress
    exact ⟨s.buf.write_leaves_others _ _, rfl, rfl, rfl, rfl, rfl, rfl, rfl, rfl⟩
  | _ => exact haddress.elim

/-- Settles O10: below 4 the cell exists, and the byte is stored there. -/
theorem asmHdrStoresSumsAndCounts : Obligations.AsmHdrStoresSumsAndCounts := by
  intro s b hidx
  have h4 : s.idx.toNat < 4 := hidx
  have hi : s.idx.toNat < s.cfg.bufSize := by
    rw [bufSize_eq]
    omega
  refine ⟨fun hp => ?_, _, exec_of_completes (.header hi), rfl, Memory.cell?_write_same _ _ _,
    s.buf.write_leaves_others _ _⟩
  rw [hp]
  exact (decode_byteWord b .hdr s.idx).trans (if_pos hidx)

/-- An instruction completes in one way. -/
theorem Completes.unique {s t u : State} {i : Instr} (ht : Completes s i t) (hu : Completes s i u) : t = u :=
  Host.Outcome.next.inj ((exec_of_completes ht).symm.trans (exec_of_completes hu))

/-- `ASM.LEN` completes in every state (R122). -/
theorem asmLen_completes (b : Byte) (s : State) : ∃ t, Completes s (.asmLen b) t := by
  rcases execAsmLen_cases b s with ⟨-, e⟩ | ⟨-, e⟩ | ⟨-, -, e⟩
  · exact ⟨_, completes_of_exec e⟩
  · exact ⟨_, completes_of_exec e⟩
  · exact ⟨_, completes_of_exec e⟩

/-- Settles O11: the byte is stored at 4 in any case, and each verdict is a way in which `ASM.LEN` completes. -/
theorem asmLenStoresAndJudgesTheLength : Obligations.AsmLenStoresAndJudgesTheLength := by
  intro s b
  obtain ⟨t, ht⟩ := asmLen_completes b s
  have hbuf : t.buf = s.buf.write 4 b := buf_of_exec (exec_of_completes ht)
  refine ⟨fun hp hidx => ?_, t, exec_of_completes ht, ?_, ?_, fun hb => ?_, fun _ hb => ?_, fun hmax hb => ?_⟩
  · rw [hp, hidx]
    exact decode_byteWord b .hdr 4
  · rw [hbuf, Memory.cell?_write_same]
  · rw [hbuf]
    exact s.buf.write_leaves_others 4 b
  · cases ht.unique (.lengthOutOfRange hb)
    rfl
  · subst hb
    cases ht.unique .noPayload
    rfl
  · have hpos : 0 < b.toNat := Nat.pos_of_ne_zero fun h0 => hb (BitVec.eq_of_toNat_eq h0)
    cases ht.unique (.somePayload hpos hmax)
    rfl

/-- `ASM.PAY` where its cell exists: the byte is stored, and the last one leads to the checksum (R124). -/
theorem exec_asmPay_of_lt_bufSize {s : State} (hi : s.idx.toNat < s.cfg.bufSize) (b : Byte) :
    exec (.asmPay b) s = .next (report .quiet (setPhase
      (if s.idx.toNat + 1 = 5 + s.len.toNat then .ckHi else s.phase) (storeBodyByte s.idx b s))) := by
  have hnext := toNat_add_one_of_lt_bufSize hi
  split
  next hend => exact exec_of_completes (.lastPayload hi (hnext.trans hend))
  next hend => exact exec_of_completes (.morePayload hi (hnext.trans_ne hend))

/-- Settles O12: what `ASM.PAY` answers where its cell exists. -/
theorem asmPayStoresAndEndsThePayload : Obligations.AsmPayStoresAndEndsThePayload := by
  intro s b hi
  refine ⟨fun hp => ?_, _, exec_asmPay_of_lt_bufSize hi b, rfl, Memory.cell?_write_same _ _ _,
    s.buf.write_leaves_others _ _⟩
  rw [hp]
  exact decode_byteWord b .payload s.idx

/-- Within a frame the bytes counted are at most its header region and payload (R33 I2). -/
theorem Inv.idx_le_bodyEnd {s : State} (h : Inv s) (hp : s.phase ≠ .hunt) : s.idx.toNat ≤ 5 + s.len.toNat := by
  cases hphase : s.phase with
  | hunt => exact absurd hphase hp
  | hdr =>
    have h4 : s.idx.toNat ≤ 4 := BitVec.le_def.1 (h.hdr hphase)
    omega
  | payload =>
    obtain ⟨-, -, -, hlt⟩ := h.payload hphase
    exact Nat.le_of_lt hlt
  | ckHi => exact (h.checksumPhases (.inl hphase)).2.le
  | ckLo => exact (h.checksumPhases (.inr hphase)).2.le

/-- Settles O13: the one way in which `ASM.TMO` completes, and the invariants on the bytes consumed. -/
theorem asmTmoReportsShortRead : Obligations.AsmTmoReportsShortRead := by
  intro s d
  obtain ⟨-, -, -, hevents⟩ := dispatchSelectsByWordPhaseAndIndex
  obtain ⟨-, htimeout, -⟩ := hevents d s.idx
  refine ⟨htimeout s.phase, exec_of_completes .shortRead, fun h hp => ?_⟩
  have hgot := h.bytesConsumed_toNat
  have hidx := h.idx_le_bodyEnd hp
  refine ⟨hgot, (?_ : (bytesConsumed s).toNat ≤ _), h.noPacket hp⟩
  split at hgot <;> omega

/-- Settles O14: the one way in which `ASM.ERR` completes; no packet is readable within a frame. -/
theorem asmErrReportsIoFailure : Obligations.AsmErrReportsIoFailure := by
  intro s d
  obtain ⟨-, -, -, hevents⟩ := dispatchSelectsByWordPhaseAndIndex
  obtain ⟨-, -, -, hfailure⟩ := hevents d s.idx
  exact ⟨hfailure s.phase, exec_of_completes .frameFailure, fun h hp => h.noPacket hp⟩

end Sys2Proof.Machine

/-! ### The checksum and its forms (R72, R151, R152, R153, R154) -/

namespace Sys2Proof.Machine

theorem accumulate_toNat (sum : Sum16) (b : Byte) : (accumulate sum b).toNat = (sum.toNat + b.toNat) % 65536 := by
  rw [accumulate, BitVec.toNat_add, zext16_toNat]

/-- Settles O33: by the ways in which an instruction can complete. -/
theorem whoWritesTheSum : Obligations.WhoWritesTheSum := by
  refine ⟨rfl, fun i s t h => ?_⟩
  cases completes_of_exec h with
  | startFrame _ => exact (if_pos rfl).symm
  | slide _ => exact (if_neg nofun).symm
  | header _ | lengthOutOfRange _ | noPayload | somePayload _ _ | lastPayload _ _ | morePayload _ _ =>
    exact accumulate_toNat _ _
  | _ => rfl

/-- The checksum as a number (R152). -/
theorem checksum_toNat (seed : Sum16) (body : List Byte) :
    (checksum seed body).toNat = (seed.toNat + (body.map BitVec.toNat).sum) % 65536 := by
  induction body generalizing seed with
  | nil => exact (Nat.mod_eq_of_lt seed.isLt).symm
  | cons b bs ih =>
    rw [checksum_cons, ih, accumulate_toNat, Nat.mod_add_mod, List.map_cons, List.sum_cons, Nat.add_assoc]

/-- The low byte of a received checksum is the second one received (R72). -/
theorem receivedChecksum_low (hi lo : Byte) : (receivedChecksum hi lo).extractLsb' 0 8 = lo := by
  refine BitVec.eq_of_toNat_eq ?_
  rw [BitVec.extractLsb'_toNat, Nat.shiftRight_zero, receivedChecksum_toNat]
  have := lo.isLt
  omega

/-- The two bytes sent are the only ones that are received as the checksum (R72, R152). -/
theorem checksumBytes_eq_iff {seed : Sum16} {body : List Byte} {hi lo : Byte} :
    checksumBytes seed body = [hi, lo] ↔ receivedChecksum hi lo = checksum seed body := by
  constructor
  · intro h
    obtain ⟨rfl, rfl⟩ : _ = hi ∧ _ = lo := by simpa [checksumBytes] using h
    exact receivedChecksum_bytes _
  · intro h
    rw [checksumBytes, ← h, receivedChecksum_high, receivedChecksum_low]

/-- Settles O48: by induction on the bytes; the bytes sent; and the invariant on `sum` (R33 I3). -/
theorem checksumIsTheModularSum : Obligations.ChecksumIsTheModularSum := by
  refine ⟨checksum_toNat, fun seed body => ⟨_, _, rfl, ?_⟩, fun s h hp => h.running ?_⟩
  · rw [← receivedChecksum_toNat, receivedChecksum_bytes]
  · rcases hp with hp | hp <;> simp [hp]

/-- Settles O50: each form by adding its seed to the plain sum of the bytes. -/
theorem checksumFormsAgree : Obligations.ChecksumFormsAgree := by
  intro body rx
  have hA5 : checksum 0x00A5 body = checksum 0 body + 0x00A5 := checksum_seed_add 0 0x00A5 body
  have h5B : checksum 0xFF5B body = checksum 0 body - 0x00A5 := by
    rw [sub_eq_add_neg]
    exact checksum_seed_add 0 (-0x00A5) body
  have hwindow : checksum 0 (0xA5 :: body) = checksum 0x00A5 body := rfl
  refine ⟨?_, ?_, ?_, ?_⟩
  · rw [hA5, BitVec.add_comm]
  · rw [hA5, sub_eq_iff_eq_add]
  · rw [hwindow, eq_comm]
  · rw [h5B, eq_comm]

/-- The order of the bytes does not matter (R153). -/
theorem checksum_perm (seed : Sum16) {as bs : List Byte} (h : as.Perm bs) : checksum seed as = checksum seed bs := by
  have : RightCommutative accumulate := ⟨fun sum b c => add_right_comm sum (zext16 b) (zext16 c)⟩
  exact h.foldl_eq seed

theorem frameBody_perm {v d src c v' d' src' c' : Byte} {payload payload' : List Byte}
    (h : (v :: d :: src :: c :: payload).Perm (v' :: d' :: src' :: c' :: payload')) :
    (frameBody v d src c payload).Perm (frameBody v' d' src' c' payload') := by
  have hlen : payload'.length = payload.length := by simpa using h.length_eq.symm
  have hmove (v d src c n : Byte) (ps : List Byte) :
      (v :: d :: src :: c :: n :: ps).Perm (n :: v :: d :: src :: c :: ps) :=
    List.perm_middle (l₁ := [v, d, src, c])
  rw [frameBody, frameBody, hlen]
  exact (hmove ..).trans ((h.cons _).trans (hmove ..).symm)

/-- Settles O49: the permuted frame is the good frame of its own body. -/
theorem reorderedFrameIsAccepted : Obligations.ReorderedFrameIsAccepted := by
  refine ⟨fun seed _ _ h => checksum_perm seed h, ?_⟩
  intro s v d src c v' d' src' c' payload payload' rest hstart hmax hperm ht
  have hlen : payload'.length = payload.length := by simpa using hperm.length_eq.symm
  rw [checksumBytes, checksum_perm _ (frameBody_perm hperm)] at ht
  rw [← hlen] at hmax ⊢
  obtain ⟨-, t, hrun, hout, -⟩ := goodFrameIsDeliveredExactly s v' d' src' c' payload' rest hstart hmax ht
  exact ⟨t, hrun, hout⟩

/-- Settles O15: the dispatch of a byte in `CK_HI`, and the one way in which `CKS.HI` completes. -/
theorem cksHiHoldsTheHighByte : Obligations.CksHiHoldsTheHighByte := by
  refine fun s b => ⟨fun hp => ?_, exec_of_completes .highByte⟩
  rw [hp]
  exact decode_byteWord b .ckHi s.idx

/-- Settles O16: the dispatch of a byte in `CK_LO`, the two ways in which `CKS.LO` completes, and the invariants. -/
theorem cksLoDeliversOrDiscards : Obligations.CksLoDeliversOrDiscards := by
  intro s b
  refine ⟨fun hp => ?_, fun hck hi => ?_, fun hck => ?_, fun h hp => ⟨(h.checksumPhases (.inr hp)).2, h.noPacket ?_⟩⟩
  · rw [hp]
    exact decode_byteWord b .ckLo s.idx
  · exact ⟨s.buf.prefixBytes s.idx.toNat, Memory.length_prefixBytes _ _,
      fun a ha => Memory.getElem?_prefixBytes s.buf ha,
      exec_of_completes (.deliver ((receivedChecksum_eq_iff _ _ _).2 hck) hi)⟩
  · exact exec_of_completes (.discard (mt (receivedChecksum_eq_iff _ _ _).1 hck))
  · simp [hp]

/-- Settles O47: with 02 as its length byte, the frame is a good one of two payload bytes, one byte too long. -/
theorem damagedLengthByteCanBeAccepted : Obligations.DamagedLengthByteCanBeAccepted := by
  refine ⟨by decide, ?_⟩
  obtain ⟨-, t, hrun, hout, -⟩ := preambleAndFrameAreDelivered
    { State.reset with
      trace := byteWords [0xFF, 0x00, 0xFF, 0xA5, 0x00, 0x0F, 0x10, 0x02, 0x02, 0x39, 0x00, 0x01, 0x01, 0x03] }
    0x00 0x0F 0x10 0x02 [0x39, 0x00] [byteWord 0x03] ⟨rfl, rfl, rfl⟩ (by decide) (by decide)
  exact ⟨t, hrun, hout⟩

/-! ### A frame with one byte changed (R159) -/

theorem accumulate_right_inj {sum : Sum16} {b c : Byte} : accumulate sum b = accumulate sum c ↔ b = c := by
  rw [accumulate, accumulate, add_right_inj, ← BitVec.toNat_inj, zext16_toNat, zext16_toNat, BitVec.toNat_inj]

/-- One byte of a body changed changes its checksum: moved to the end, the byte is the last summand (R153, R159). -/
theorem checksum_set_ne (seed : Sum16) {bs : List Byte} {j : Nat} {x : Byte} (hj : j < bs.length) (hx : bs[j] ≠ x) :
    checksum seed (bs.set j x) ≠ checksum seed bs := by
  have hlast (b : Byte) : checksum seed (b :: bs.eraseIdx j) = accumulate (checksum seed (bs.eraseIdx j)) b := by
    rw [checksum_perm seed (List.perm_append_singleton ..).symm, checksum_snoc]
  rw [checksum_perm seed (List.set_perm_cons_eraseIdx hj x),
    ← checksum_perm seed (List.getElem_cons_eraseIdx_perm hj), hlast, hlast, Ne, accumulate_right_inj]
  exact hx.symm

theorem checksumBytes_inj {seed : Sum16} {as bs : List Byte} :
    checksumBytes seed as = checksumBytes seed bs ↔ checksum seed as = checksum seed bs :=
  checksumBytes_eq_iff.trans (by rw [receivedChecksum_bytes, eq_comm])

/-- Any byte of a body but the length byte may be changed, and it is a body of the same length (R70). -/
theorem frameBody_set (v d src c : Byte) (payload : List Byte) {j : Nat} (h4 : j ≠ 4) (x : Byte) :
    ∃ v' d' src' c' payload', payload'.length = payload.length ∧
      (frameBody v d src c payload).set j x = frameBody v' d' src' c' payload' := by
  match j with
  | 0 => exact ⟨x, d, src, c, payload, rfl, rfl⟩
  | 1 => exact ⟨v, x, src, c, payload, rfl, rfl⟩
  | 2 => exact ⟨v, d, x, c, payload, rfl, rfl⟩
  | 3 => exact ⟨v, d, src, x, payload, rfl, rfl⟩
  | 4 => exact absurd rfl h4
  | i + 5 =>
    refine ⟨v, d, src, c, payload.set i x, List.length_set, ?_⟩
    rw [frameBody, frameBody, List.length_set]
    rfl

/-- The second checksum byte, when the two do not match (R158). -/
theorem Receiving.step_discard {bytes : List Byte} {b : Byte} {rest : List InputWord} {s : State}
    (h : Receiving .ckLo bytes (byteWord b :: rest) s)
    (hck : receivedChecksum s.ckHi b ≠ checksum s.cfg.cksumSeed bytes) :
    step s = .next (raiseAndHunt .checksumMismatch (setTrace rest s)) := by
  have hd : decodeByte b s.phase s.idx = .ok (.cksLo b) := by
    rw [h.phase]
    rfl
  exact step_of_byte h.trace hd (.discard fun he => hck (he.trans h.sum))

/-- From the start of a frame with `n` payload bytes, the block is quiet up to the frame's last byte, reports
`ChecksumMismatch` there, and hunts afresh with no packet readable (R158, R159). -/
def discardsFrame (n : Nat) (rest : List InputWord) (s : State) : Prop :=
  quietFor (6 + n) s ∧
  ∃ t : State, runsTo (7 + n) s t ∧ t.out = some .checksumMismatch ∧ huntsAfresh t ∧ t.pktValid = false ∧
    (∀ a, readPort t a = none) ∧ t.trace = rest

/-- A body with a length in range and two bytes that are not its checksum are discarded (R158). -/
theorem discardsFrame_of_ne_checksumBytes {s : State} {v d src c : Byte} {payload ck : List Byte}
    {rest : List InputWord} (h : FrameStart s) (hmax : payload.length ≤ s.cfg.maxPayload.toNat) (hlen : ck.length = 2)
    (hne : checksumBytes s.cfg.cksumSeed (frameBody v d src c payload) ≠ ck)
    (ht : s.trace = byteWords (frameBody v d src c payload ++ ck) ++ rest) : discardsFrame payload.length rest s := by
  obtain ⟨hi, lo, rfl⟩ := List.length_eq_two.1 hlen
  rw [byteWords, List.map_append, List.append_assoc] at ht
  obtain ⟨u, hquiet, hu, hhigh⟩ := runsQuietly_frame h hmax ht
  have hck : receivedChecksum u.ckHi lo ≠ checksum u.cfg.cksumSeed (frameBody v d src c payload) := by
    rw [hhigh, runsTo_cfg hquiet.run]
    exact mt checksumBytes_eq_iff.2 hne
  have hrun : runsTo (6 + payload.length + 1) s _ := runsTo_snoc hquiet.run (hu.step_discard hck)
  rw [show 6 + payload.length + 1 = 7 + payload.length by omega] at hrun
  exact ⟨hquiet.quiet, _, hrun, rfl, ⟨rfl, rfl, rfl⟩, hu.noPacket, fun a => readPort_eq_none.2 (.inl hu.noPacket), rfl⟩

/-- Settles O46: a changed body byte changes the checksum that the frame should carry, a changed checksum byte the one it
does carry. -/
theorem singleByteErrorsAreDetected : Obligations.SingleByteErrorsAreDetected := by
  intro s v d src c payload rest j x h hmax hj h4 hx ht
  rw [goodFrame] at hx ht
  rcases Nat.lt_or_ge j (frameBody v d src c payload).length with hbody | hck
  · rw [List.getElem?_append_left hbody, List.getElem?_eq_getElem hbody, Ne, Option.some_inj] at hx
    have hne := checksum_set_ne s.cfg.cksumSeed hbody hx
    rw [List.set_append_left _ _ hbody] at ht
    obtain ⟨v', d', src', c', payload', hlen, hset⟩ := frameBody_set v d src c payload h4 x
    rw [hset] at hne ht
    rw [← hlen] at hmax ⊢
    exact discardsFrame_of_ne_checksumBytes h hmax rfl (mt checksumBytes_inj.1 hne) ht
  · rw [List.set_append_right _ _ hck] at ht
    rw [List.getElem?_append_right hck] at hx
    rw [length_frameBody] at hck hx ht
    refine discardsFrame_of_ne_checksumBytes h hmax List.length_set (fun he => hx ?_) ht
    rw [he]
    exact List.getElem?_set_self (show _ < 2 by omega)

end Sys2Proof.Machine

/-! ### The system operations (R170, R172) -/

namespace Sys2Proof

theorem decode_of_reserved {iw : InputWord} (hr : iwRst iw = false) (hk : iwKind iw = kindReserved) (p : Phase)
    (idx : Count) : decode iw p idx = .ok .evRsvd := by
  rw [decode, hr, if_neg Bool.false_ne_true, if_pos hk]

end Sys2Proof

namespace Sys2Proof.Machine

/-- RESET makes the reset state, but for the model's own fields and the parameters (R34, R170). -/
theorem resetElements_eq_reset (s : State) :
    resetElements s = { State.reset with cfg := s.cfg, trace := s.trace, out := s.out } := rfl

/-- Settles O17: `rst` is dispatched first, and `RESET` completes in one way, from the elements of the reset state. -/
theorem resetClearsEverythingButTheBuffer : Obligations.ResetClearsEverythingButTheBuffer := by
  intro s
  have hexec : exec .reset s = .next (report .quiet (resetElements s)) := exec_of_completes .reset
  refine ⟨fun iw hr => decode_of_rst hr s.phase s.idx, hexec, ?_⟩
  rw [hexec, resetElements_eq_reset, report]

/-- Settles O18: the reserved kind is dispatched to `EV.RSVD`, and the reaction is its refusal. -/
theorem reservedEventIsRefused : Obligations.ReservedEventIsRefused := by
  intro s iw hr hk
  have hd : decode iw s.phase s.idx = .ok .evRsvd := decode_of_reserved hr hk s.phase s.idx
  have hexec : exec .evRsvd s = .refused .reservedEvent := rfl
  exact ⟨hd, hexec, (react_of_decode hd).trans hexec⟩

end Sys2Proof.Machine

/-! ### After an outcome: resynchronization and the state that is left (R186, R189) -/

namespace Sys2Proof.Machine

/-- A timeout, in mid-frame or while hunting, leaves the block hunting with a clear window (R102, R126, R189). -/
theorem step_of_timeout {s : State} {rest : List InputWord} (ht : s.trace = timeoutWord :: rest) :
    ∃ t, step s = .next t ∧ huntsAfresh t ∧ t.trace = rest ∧ t.cfg = s.cfg := by
  have hstep := step_of_decode ht (decode_timeoutWord s.phase s.idx)
  by_cases hp : s.phase = .hunt
  · rw [if_pos hp] at hstep
    exact ⟨_, hstep.trans (exec_of_completes .busIdle), ⟨rfl, rfl, rfl⟩, rfl, rfl⟩
  · rw [if_neg hp] at hstep
    exact ⟨_, hstep.trans (exec_of_completes .shortRead), ⟨rfl, rfl, rfl⟩, rfl, rfl⟩

/-- Settles O45: the timeout leads to a clear hunt, from which the preamble and the frame are delivered. -/
theorem resynchronizesAfterATimeoutInAnyState : Obligations.ResynchronizesAfterATimeoutInAnyState := by
  intro s v d src c payload rest hmax ht
  have htimeout : s.trace =
      timeoutWord :: (assemble s.cfg.cksumSeed [.pre, .frame v d src c payload] ++ rest) := ht
  obtain ⟨u, hstep, hhunt, htrace, hcfg⟩ := step_of_timeout htimeout
  rw [← hcfg] at hmax htrace
  obtain ⟨-, t, hrun, hout, -, -, hrest⟩ :=
    preambleAndFrameAreDelivered u v d src c payload rest hhunt hmax htrace
  refine ⟨t, ?_, hout, hrest⟩
  rw [show 12 + payload.length = 11 + payload.length + 1 by omega]
  exact runsTo_succ.2 ⟨u, hstep, hrun⟩

/-- Settles O28: by the ways in which an instruction reports an outcome. The invariants say that no packet is readable
within a frame, and that `idx` has reached the end of the payload when one is delivered. -/
theorem stateAfterEachOutcome : Obligations.StateAfterEachOutcome := by
  intro s t iw o h hr ho hquiet
  obtain ⟨i, hd, he⟩ := react_eq_next.1 hr
  have hw := wellFormedAt_of_decode hd
  cases completes_of_exec he with
  | startFrame _ =>
    cases ho
    exact ⟨⟨rfl, rfl⟩, fun _ => ⟨rfl, rfl, rfl, rfl, rfl, rfl, rfl, rfl⟩, fun hne => absurd rfl hne, fun _ => rfl,
      nofun, nofun, nofun, nofun, nofun, nofun, nofun, fun hne => absurd rfl hne⟩
  | busIdle | huntFailure =>
    cases ho
    have hp : s.phase = .hunt := beq_iff_eq.1 hw
    exact ⟨⟨rfl, rfl⟩, nofun, fun _ => rfl, fun _ => rfl, fun _ => ⟨hp, rfl⟩, fun _ _ => rfl,
      fun _ hne => absurd hp hne, nofun, nofun, nofun, nofun, fun _ _ => ⟨rfl, rfl, rfl, rfl, rfl⟩⟩
  | lengthOutOfRange _ =>
    cases ho
    have hp : s.phase = .hdr ∧ s.idx = 4 := by simpa [Instr.wellFormedAt] using hw
    have hv : s.pktValid = false := h.noPacket (by simp [hp])
    refine ⟨⟨rfl, rfl⟩, nofun, fun _ => rfl, fun _ => rfl, nofun, nofun, nofun, nofun, nofun, ?_, nofun,
      fun _ hne => absurd rfl (hne _)⟩
    rintro n ⟨⟩
    exact ⟨hv, hv, Memory.cell?_write_same _ _ _, rfl, rfl, rfl, rfl, fun a => Memory.cell?_write_other _ _⟩
  | shortRead | frameFailure | discard _ =>
    cases ho
    have hp : s.phase ≠ .hunt := fun hp => by simp [hp, Instr.wellFormedAt] at hw
    have hv : s.pktValid = false := h.noPacket hp
    exact ⟨⟨rfl, rfl⟩, nofun, fun _ => rfl, fun _ => rfl, nofun, fun _ hhunt => absurd hhunt hp,
      fun _ _ => ⟨hv, hv⟩, nofun, fun _ => ⟨hv, hv⟩, nofun, fun _ _ => ⟨hv, hv⟩,
      fun _ _ => ⟨rfl, rfl, rfl, rfl, rfl⟩⟩
  | deliver _ _ =>
    cases ho
    have hp : s.phase = .ckLo := beq_iff_eq.1 hw
    obtain ⟨-, hidx⟩ := h.checksumPhases (.inr hp)
    exact ⟨⟨rfl, rfl⟩, nofun, fun _ => rfl, fun hne => absurd rfl (hne _), nofun, nofun, nofun,
      fun _ _ => ⟨rfl, rfl, hidx⟩, nofun, nofun, nofun, fun _ _ => ⟨rfl, rfl, rfl, rfl, rfl⟩⟩
  | _ => exact absurd (Option.some.inj ho).symm hquiet

end Sys2Proof.Machine

/-! ### The word that selects RESET (R74, R80) -/

namespace Sys2Proof

/-- The reset bit of a word is not one of its ignored bits (R74). -/
theorem iwRst_canonicalWord (iw : InputWord) : iwRst (canonicalWord iw) = iwRst iw := by
  unfold canonicalWord
  split_ifs with hr
  · exact (iwRst_mk _ _ _).trans hr.symm
  · simp [hr, byteWord]
  · simp [hr]

/-- `RESET` is selected by the reset bit only (R80). -/
theorem iwRst_of_decode_reset {iw : InputWord} {p : Phase} {idx : Count} (h : decode iw p idx = .ok .reset) :
    iwRst iw = true := by
  rw [← iwRst_canonicalWord, ← encode_of_decode h]
  rfl

end Sys2Proof

/-! ### The packet while the block hunts, and how soon it can match (R100, R216) -/

namespace Sys2Proof.Machine

/-- Settles O38: a readable packet is read in `HUNT`, where only the match of `SYN.BYTE` and `RESET` touch it. -/
theorem packetStaysReadableUntilTheNextMatch : Obligations.PacketStaysReadableUntilTheNextMatch := by
  intro s t iw h hv hr ht
  obtain ⟨hp, -⟩ := h.valid hv
  obtain ⟨i, hd, he⟩ := react_eq_next.1 ht
  have hw := wellFormedAt_of_decode hd
  cases completes_of_exec he with
  | startFrame _ => exact ⟨fun hout => absurd rfl hout, fun _ => ⟨fun _ => readPort_eq_none.2 (.inl rfl), rfl⟩⟩
  | slide _ | busIdle | huntFailure => exact ⟨fun _ => ⟨hv, rfl, fun _ => ⟨rfl, rfl⟩⟩, nofun⟩
  | reset => simp [iwRst_of_decode_reset hd] at hr
  | _ => simp [hp, Instr.wellFormedAt] at hw

/-- An instruction counts at most one more byte in the window (R22). -/
theorem winN_le_of_exec {i : Instr} {s t : State} (h : exec i s = .next t) : t.winN.toNat ≤ s.winN.toNat + 1 := by
  cases completes_of_exec h with
  | slide _ => exact (nextWinN_toNat s.winN).trans_le (Nat.min_le_left _ _)
  | header _ | noPayload | somePayload _ _ | lastPayload _ _ | morePayload _ _ | highByte => exact Nat.le_succ _
  | _ => exact Nat.zero_le _

theorem winN_le_of_step {s t : State} (h : step s = .next t) : t.winN.toNat ≤ s.winN.toNat + 1 := by
  rcases step_cases h with ⟨-, rfl⟩ | ⟨_, rest, _, -, -, he⟩
  · exact Nat.le_succ _
  · exact winN_le_of_exec (s := setTrace rest s) he

/-- A run counts at most one more byte in the window per step. -/
theorem winN_le_of_runsTo {k : Nat} {s t : State} (h : runsTo k s t) : t.winN.toNat ≤ s.winN.toNat + k := by
  induction k generalizing s with
  | zero => rw [runsTo_zero.1 h, Nat.add_zero]
  | succ k ih =>
    obtain ⟨u, hu, hrun⟩ := runsTo_succ.1 h
    have hstep := winN_le_of_step hu
    have hrest := ih hrun
    omega

/-- Three bytes are in the window before the one that completes a preamble (R100). -/
theorem three_le_winN_of_synchronized {s t : State} (h : step s = .next t) (ho : t.out = some .synchronized) :
    3 ≤ s.winN.toNat := by
  rcases step_cases h with ⟨-, rfl⟩ | ⟨_, _, _, -, -, he⟩
  · cases ho
  · cases completes_of_exec he with
    | startFrame hm =>
      obtain ⟨hthree, -⟩ := (preambleMatch_shiftIn_iff _ _ _).1 hm
      exact hthree
    | _ => cases ho

/-- Settles O39: a match needs three bytes counted before its own step, and two steps from a clear window count two. -/
theorem noMatchWithinThreeStepsOfAClearWindow : Obligations.NoMatchWithinThreeStepsOfAClearWindow := by
  intro s t k ⟨_, hwindow⟩ h1 h3 hrun ho
  obtain ⟨-, hclear⟩ := hwindow
  have hzero : s.winN.toNat = 0 := congrArg BitVec.toNat hclear
  obtain ⟨j, rfl⟩ := Nat.exists_eq_add_of_le' h1
  obtain ⟨u, hu, hlast⟩ := runsTo_add.1 hrun
  obtain ⟨v, hstep, hv⟩ := runsTo_succ.1 hlast
  obtain rfl := runsTo_zero.1 hv
  have hthree := three_le_winN_of_synchronized hstep ho
  have hcount := winN_le_of_runsTo hu
  omega

end Sys2Proof.Machine
